-- ==== Sys2Proof/Word.lean ====
section
/-! DEFINITION. The word types of the block: a byte (a memory byte, an immediate NN, a byte of the random port), the 16-bit instruction word, and a general register's number 0..15. A register's value is a number below 2^w, for the width w its launch gives it (00_scope.md R5, R7). -/

namespace Sys2Proof

/-- An 8-bit value: a memory byte, an immediate, a byte of the random port (20_memory.md R45; 30_encoding.md R65; 00_scope.md R17). -/
abbrev Byte := BitVec 8

/-- A 16-bit value: the instruction word (R65). -/
abbrev Word := BitVec 16

/-- The number of a general register V0..VF, as a 4-bit field X or Y names it (10_state.md R20; R65). -/
abbrev Reg := Fin 16

end Sys2Proof
end

