-- ==== Sys2Proof/Syntax.lean ====
section
/-! DEFINITION. The 34 instructions of spec/opcode_table.json, one constructor a row, in the table's order (30_encoding.md R67). -/

namespace Sys2Proof

/-- One constructor per row of the opcode map (R67). `x` and `y` are register numbers, `nn` the 8-bit immediate, `nnn` the
12-bit address or immediate, `n` the count of sprite rows (R65, R66). -/
inductive Instr where
  /-- 0x00E0 Clear. -/
  | cls
  /-- 0x00EE Return. -/
  | ret
  /-- 0x1NNN Jump. -/
  | jp (nnn : BitVec 12)
  /-- 0x2NNN Call. -/
  | call (nnn : BitVec 12)
  /-- 0x3XNN Skip-eq-imm. -/
  | seImm (x : Reg) (nn : Byte)
  /-- 0x4XNN Skip-ne-imm. -/
  | sneImm (x : Reg) (nn : Byte)
  /-- 0x5XY0 Skip-eq-reg. -/
  | seReg (x y : Reg)
  /-- 0x6XNN Load-imm. -/
  | ldImm (x : Reg) (nn : Byte)
  /-- 0x7XNN Add-imm. -/
  | addImm (x : Reg) (nn : Byte)
  /-- 0x8XY0 Move. -/
  | ldReg (x y : Reg)
  /-- 0x8XY1 Or. -/
  | orReg (x y : Reg)
  /-- 0x8XY2 And. -/
  | andReg (x y : Reg)
  /-- 0x8XY3 Xor. -/
  | xorReg (x y : Reg)
  /-- 0x8XY4 Add-carry. -/
  | addReg (x y : Reg)
  /-- 0x8XY5 Sub-borrow. -/
  | sub (x y : Reg)
  /-- 0x8XY6 Shift-right. The Y field is encoded and ignored (R131). -/
  | shr (x y : Reg)
  /-- 0x8XY7 Sub-borrow-rev. -/
  | subn (x y : Reg)
  /-- 0x8XYE Shift-left. The Y field is encoded and ignored (R133). -/
  | shl (x y : Reg)
  /-- 0x9XY0 Skip-ne-reg. -/
  | sneReg (x y : Reg)
  /-- 0xANNN Load-index. -/
  | ldI (nnn : BitVec 12)
  /-- 0xBNNN Jump-offset. -/
  | jpV0 (nnn : BitVec 12)
  /-- 0xCXNN Random. -/
  | rnd (x : Reg) (nn : Byte)
  /-- 0xDXYN Draw. -/
  | drw (x y : Reg) (n : Nat)
  /-- 0xEX9E Skip-key-pressed. -/
  | skp (x : Reg)
  /-- 0xEXA1 Skip-key-not-pressed. -/
  | sknp (x : Reg)
  /-- 0xFX07 Read-delay. -/
  | ldVxDT (x : Reg)
  /-- 0xFX0A Block-for-key. -/
  | ldVxK (x : Reg)
  /-- 0xFX15 Write-delay. -/
  | ldDTVx (x : Reg)
  /-- 0xFX18 Write-sound. -/
  | ldSTVx (x : Reg)
  /-- 0xFX1E Add-index. -/
  | addI (x : Reg)
  /-- 0xFX29 Font-pointer. -/
  | ldF (x : Reg)
  /-- 0xFX33 BCD-store. -/
  | ldB (x : Reg)
  /-- 0xFX55 Store-regs. -/
  | storeRegs (x : Reg)
  /-- 0xFX65 Load-regs. -/
  | loadRegs (x : Reg)
  deriving DecidableEq, Repr

end Sys2Proof
end

