-- ==== Sys2Proof/Config.lean ====
section
/-! DEFINITION. The implementation parameters of 00_scope.md R5, every row of its table that is a number or a setting (Params), and the free values (opaque constants without a body). The default values stand in Machine/Params.lean. -/

namespace Sys2Proof

/-- OOB_POLICY (R5, R50): what an access at an address ≥ MEM_SIZE does. -/
inductive OobPolicy where
  | fault
  | wrap
  deriving DecidableEq, Repr

/-- VF_ORDER (R5, R128): whether the result statement of a flag-setting row reads the registers after VF was written, or reads
operands latched before it. -/
inductive VfOrder where
  | sequential
  | latched
  deriving DecidableEq, Repr

/-- FONT_POINTER (R5, R152): whether FX29 uses the register's number or its value. -/
inductive FontPointer where
  | rawIndex
  | registerValue
  deriving DecidableEq, Repr

/-- KEY_WAIT_RESULT (R5, R196): whether FX0A writes 1 or the key's number. -/
inductive KeyWaitResult where
  | one
  | keyCode
  deriving DecidableEq, Repr

/-- The parameters of R5, which asks for each as an argument with a default. They are fixed by a launch and stand in State, so a
statement about every state holds at every setting. FONT, INIT_FILL and FB_INIT are arguments of a launch beside them
(Machine.Launch), RANDOM is a free value below. Where a rule writes a literal for the default of a row,
the model reads the row, and a value wider than the register it is written to is taken mod 2 to that register's width (assumption 1).
Values for which the rules have no meaning are not admitted: the proofs a Params carries say which. -/
structure Params where
  /-- MEM_SIZE (R45): the bytes of addressable memory. -/
  memSize : Nat
  /-- FONT_BASE (R46): the font table's first byte. -/
  fontBase : Nat
  /-- FONT_GLYPHS (R46): the glyphs in the font table. -/
  fontGlyphs : Nat
  /-- FONT_GLYPH_BYTES (R46, R152): the bytes of a glyph. -/
  fontGlyphBytes : Nat
  /-- PROGRAM_BASE (R49): where the image is copied, and the initial pc. -/
  programBase : Nat
  /-- MAX_IMAGE (R242): the bytes of the longest image init admits. -/
  maxImage : Nat
  /-- NUM_V (R20): the general registers. -/
  numV : Nat
  /-- V_WIDTH (R20): the bits of a general register. -/
  vWidth : Nat
  /-- I_WIDTH (R24): the bits of the index register. -/
  iWidth : Nat
  /-- PC_WIDTH (R25): the bits of the program counter. -/
  pcWidth : Nat
  /-- STACK_DEPTH (R28). -/
  stackDepth : Nat
  /-- STACK_ENTRY_WIDTH (R28): the bits of a slot of the return stack. -/
  stackEntryWidth : Nat
  /-- TIMER_WIDTH (R31, R32): the bits of a timer. -/
  timerWidth : Nat
  /-- CYCLES_PER_FRAME (R80). -/
  cyclesPerFrame : Nat
  /-- FB_WIDTH (R35). -/
  fbWidth : Nat
  /-- FB_HEIGHT (R35). -/
  fbHeight : Nat
  /-- NUM_KEYS (R36). -/
  numKeys : Nat
  /-- PC_TOP, the "topmost safe address" (R84). -/
  pcTop : Nat
  oobPolicy : OobPolicy
  vfOrder : VfOrder
  fontPointer : FontPointer
  keyWaitResult : KeyWaitResult
  /-- No block access (at most 16 bytes, R53) is longer than memory. -/
  memSize_ge : 16 ≤ memSize
  /-- The font table lies inside memory. -/
  font_fits : fontBase + fontGlyphs * fontGlyphBytes ≤ memSize
  /-- An image that init admits lies inside memory. -/
  image_fits : programBase + maxImage ≤ memSize
  /-- The program counter holds PROGRAM_BASE. -/
  programBase_lt : programBase < 2 ^ pcWidth
  /-- Each register number a 4-bit field gives (R65), VF's among them, names a register. -/
  numV_ge : 16 ≤ numV
  /-- VF can hold the flag 1. -/
  vWidth_pos : 0 < vWidth
  /-- A frame step has a cycle. -/
  cycles_pos : 0 < cyclesPerFrame
  /-- The screen has a column and a row, so a start coordinate can be taken mod its size (R175). -/
  fb_pos : 0 < fbWidth ∧ 0 < fbHeight
  /-- A key's number fits a register (R196). -/
  keys_le : numKeys ≤ 2 ^ vWidth
  deriving DecidableEq, Repr

/-- The bytes of the font table (R46). -/
def Params.fontBytes (p : Params) : Nat := p.fontGlyphs * p.fontGlyphBytes

namespace Config

/-- RANDOM (R5, R17, R134): the byte the host supplies at the n-th draw of the random port. Free: it has no body, so nothing
about its value can be proved (assumption 4). -/
opaque randomByte : Nat → Byte

/-- The elements of state that no rule defines before the first successful init (R215, R240, R244). -/
inductive Undefined where
  | v | index | pc | stack | sp | dt | st | mem | fb | key | fault | diag
  deriving DecidableEq, Repr

/-- What an element holds, as a number, by place in it, after the n-th init that failed (R215, R240, R244; 93_implementation_defined.md
U11; assumption 6). Free. -/
opaque undefinedValue : Nat → Undefined → Nat → Nat

end Config

end Sys2Proof
end

