-- ==== Sys2Proof/Machine/Params.lean ====
section
/-! DEFINITION. The default values of the launch parameters (00_scope.md R5): the sizes and settings, the font table, what memory holds at an address that nothing has written, and the blank screen. -/

namespace Sys2Proof.Machine

/-- The defaults of R5: the sizes the source states, and PC_TOP = 0xFFE, OOB_POLICY = fault, VF_ORDER = sequential, FONT_POINTER =
raw_index, KEY_WAIT_RESULT = one (decisions D1, D3, D8, D12, D13; assumption 1). -/
def defaultParams : Params :=
  { memSize := 4096, fontBase := 0x000, fontGlyphs := 16, fontGlyphBytes := 5, programBase := 0x200, maxImage := 3584, numV := 16,
    vWidth := 8, iWidth := 16, pcWidth := 16, stackDepth := 16, stackEntryWidth := 16, timerWidth := 8, cyclesPerFrame := 10, fbWidth := 64, fbHeight := 32, numKeys := 16, pcTop := 0xFFE, oobPolicy := .fault,
    vfOrder := .sequential, fontPointer := .rawIndex, keyWaitResult := .one,
    memSize_ge := by decide, font_fits := by decide, image_fits := by decide, cycles_pos := by decide, fb_pos := by decide,
    programBase_lt := by decide, numV_ge := by decide, vWidth_pos := by decide, keys_le := by decide }

/-- Glyphs 0 to 3 (20_memory.md R47). -/
def font0 : List Byte :=
  [0xF0, 0x90, 0x90, 0x90, 0xF0, 0x20, 0x60, 0x20, 0x20, 0x70, 0xF0, 0x10, 0xF0, 0x80, 0xF0, 0xF0, 0x10, 0xF0, 0x10, 0xF0]

/-- Glyphs 4 to 7 (R47). -/
def font4 : List Byte :=
  [0x90, 0x90, 0xF0, 0x10, 0x10, 0xF0, 0x80, 0xF0, 0x10, 0xF0, 0xF0, 0x80, 0xF0, 0x90, 0xF0, 0xF0, 0x10, 0x20, 0x40, 0x40]

/-- Glyphs 8 to B (R47). -/
def font8 : List Byte :=
  [0xF0, 0x90, 0xF0, 0x90, 0xF0, 0xF0, 0x90, 0xF0, 0x10, 0xF0, 0xF0, 0x90, 0xF0, 0x90, 0x90, 0xE0, 0x90, 0xE0, 0x90, 0xE0]

/-- Glyphs C to F (R47). -/
def fontC : List Byte :=
  [0xF0, 0x80, 0x80, 0x80, 0xF0, 0xE0, 0x90, 0x90, 0x90, 0xE0, 0xF0, 0x80, 0xF0, 0x80, 0xF0, 0xF0, 0x80, 0xF0, 0x80, 0x80]

/-- FONT's default: the 80 bytes of R47, which the spec takes from general knowledge (decision D7; PRESUMED, assumption 3). -/
def fontTable : List Byte := font0 ++ font4 ++ font8 ++ fontC

/-- What an address that memory does not list reads as: the font table at 0x000–0x04F (R46, R47), and 0x00 elsewhere, the
"Go-faithful" instance of INIT_FILL (R5, decision D2; DESIGN CHOICE, assumption 2): the memory of the reset state. -/
def unlistedByte (a : Nat) : Byte := (fontTable[a]?).getD 0x00

/-- A blank framebuffer of `w` columns and `h` rows, FB_INIT's default (R5, decision D19) and what `clear()` leaves (44_display.md
R171). -/
def blankFb (w h : Nat) : List (List Bool) := List.replicate w (List.replicate h false)

end Sys2Proof.Machine
end

