-- ==== Sys2Proof/Machine/State.lean ====
section
/-! DEFINITION. The state of the block as plain data (10_state.md), the host's pending transactions, the reasons a step can stop, and the state after reset. -/

namespace Sys2Proof.Machine

/-- Memory: (address, byte) pairs, addresses strictly rising and below MEM_SIZE, no entry equal to what an unlisted address
reads as (20_memory.md R45; `unlistedByte`). -/
abbrev Memory := List Host.Cell

/-- fb, a list of FB_WIDTH columns of FB_HEIGHT pixels each, `fb[x][y]`; `true` is set (R35). -/
abbrev Framebuffer := List (List Bool)

/-- The input latch, NUM_KEYS entries: `true` means the key is held (R36). -/
abbrev Keys := List Bool

/-- The reported conditions of tier 2 (60_exceptions.md R211). -/
inductive Condition where
  | pcSaturation
  | stackOverflow
  | stackUnderflow
  | unknownOpcode
  | invalidKeyOperand
  deriving DecidableEq, Repr

/-- The numeric code of a reported condition (R211, decision D17). -/
def Condition.code : Condition → Nat
  | .pcSaturation => 1
  | .stackOverflow => 2
  | .stackUnderflow => 3
  | .unknownOpcode => 4
  | .invalidKeyOperand => 5

/-- One record of the diagnostics log, `(code, fpc, w, info)` (R40, R211). -/
structure DiagRecord where
  code : Condition
  fpc : Nat
  w : Word
  info : Option Nat
  deriving DecidableEq, Repr

/-- The kind of a fault record; MemoryOutOfRange is the only one (R39, R211 code 16). -/
inductive FaultKind where
  | memoryOutOfRange
  deriving DecidableEq, Repr

/-- The numeric code of the fault (R211). -/
def FaultKind.code : FaultKind → Nat
  | .memoryOutOfRange => 16

/-- The fault record `(kind, fpc, w, addr)`; `w` is `none` if the fetch itself faulted; `addr` is an unbounded address (R7, R39). -/
structure FaultRecord where
  kind : FaultKind
  fpc : Nat
  w : Option Word
  addr : Nat
  deriving DecidableEq, Repr

/-- The arguments of a launch whose program the loader could read: the image, and the parameters of R5 and R43. FONT has the bytes
the parameters give it; INIT_FILL is the bytes it gives to addresses (assumption 2); FB_INIT is read at each pixel of the screen, a
pixel it does not list being unset. -/
structure Launch where
  image : List Byte
  params : Params
  font : Vector Byte params.fontBytes
  fill : List Host.Cell
  fb : Framebuffer
  deriving DecidableEq, Repr

/-- What `init` is given: a launch, or the loader's indication that the source cannot be read (R13, R240). -/
inductive Load where
  | image (l : Launch)
  | unreadable
  deriving DecidableEq, Repr

/-- A transaction the host makes between frame steps, or its call of `step()` (60_exceptions.md R224). -/
inductive HostAction where
  /-- Call `init` (R13). -/
  | init (load : Load)
  /-- Write the whole key latch (R15, R36); a key the list does not reach is released (assumption 18). -/
  | writeKeys (k : Keys)
  /-- Call `step()` (R14). -/
  | callStep
  deriving DecidableEq, Repr

/-- The whole state. The first group is the spec's (10_state.md); the second is the model's own. A register holds a number below 2 to
its width, which the launch gives (R5, R7): `State.Fits`. -/
structure State where
  /-- V[0..NUM_V-1] (R20 to R23). -/
  v : List Nat
  /-- I (R24). -/
  index : Nat
  /-- pc (R25 to R27). -/
  pc : Nat
  /-- stack[0..STACK_DEPTH-1] (R28). -/
  stack : List Nat
  /-- sp, the count of used slots (R28 to R30). -/
  sp : Nat
  /-- DT (R31). -/
  dt : Nat
  /-- ST (R32). -/
  st : Nat
  /-- mem (R45). -/
  mem : Memory
  /-- fb (R35). -/
  fb : Framebuffer
  /-- key[0..NUM_KEYS-1] (R36). -/
  key : Keys
  /-- halted (R38). -/
  halted : Bool
  /-- fault (R39). -/
  fault : Option FaultRecord
  /-- diag, oldest record first (R40). -/
  diag : List DiagRecord
  /-- fpc, the address the current instruction was fetched from; each cycle sets it before anything reads it (40_cycle.md R82). -/
  fpc : Nat
  /-- The cycles already run of the current frame step; 0 between frame steps (R80, R88). -/
  slot : Nat
  /-- The transactions the host will make, in order, each between two frame steps; when it is empty the host goes on calling
  `step()` and does nothing else (R224; assumption 5). -/
  host : List HostAction
  /-- How many bytes the random port has supplied (R37; assumption 4). -/
  draws : Nat
  /-- How many inits have failed: the counter of the free values they leave (assumption 6). -/
  failedInits : Nat
  /-- The launch's parameters (R5, R43; assumption 1). -/
  params : Params
  deriving DecidableEq, Repr

/-- The reasons the machine stops with a fault outside its own state: none. The block's one fault, MemoryOutOfRange, has the
effect R214 gives it: it is recorded in `State.fault`, `halted` is set, and the machine is in a next state in which each
`step()` is a no-op (R81). Nothing raises a value of this type, so it has no constructor (assumption 9; safe). -/
inductive Fault where
  deriving DecidableEq, Repr

/-- The reasons a step has no meaning. -/
inductive Refusal where
  /-- Raised by exec for an instruction without a meaning yet: none is left. Safe: nothing is claimed of such a step. -/
  | notModelled (mnemonic : String)
  /-- Raised by `init` given more than MAX_IMAGE bytes: "the model gives the launch no meaning" (70_reset_and_hazards.md R242).
  Safe: nothing is claimed of such a launch. -/
  | imageTooLarge
  deriving DecidableEq, Repr

/-- The state after reset. The block has no reset signal; `init` is the only way to initialise it (R240), so reset is the state
after a successful `init` of an empty image (R42, R241) with the default launch arguments: INIT_FILL 0x00 (assumption 2),
FB_INIT blank (assumption 7), no key held (assumption 5), the default parameters (assumption 1) (assumption 8). -/
def State.reset : State :=
  { v := List.replicate defaultParams.numV 0x00
    index := 0x0000
    pc := defaultParams.programBase
    stack := List.replicate defaultParams.stackDepth 0x0000
    sp := 0
    dt := 0
    st := 0
    mem := []
    fb := blankFb defaultParams.fbWidth defaultParams.fbHeight
    key := List.replicate defaultParams.numKeys false
    halted := false
    fault := none
    diag := []
    fpc := defaultParams.programBase
    slot := 0
    host := []
    draws := 0
    failedInits := 0
    params := defaultParams }

end Sys2Proof.Machine
end

