-- ==== Sys2Proof/Machine/Ops.lean ====
section
/-! DEFINITION. The named operations over memory, registers, the return stack, the framebuffer, the timers and the random port, and the two ways a condition is raised: `report` (60_exceptions.md R212) and `raiseFault` (R214), the block's one exception. There is no return from it (R218): only `init` leaves it. -/

namespace Sys2Proof.Machine

/-! ### Memory cells -/

/-- The byte at an address of memory: the listed one, or what an unlisted address reads as. -/
def memGet : Memory → Nat → Byte
  | [], a => unlistedByte a
  | (b, u) :: m, a => if a = b then u else memGet m a

/-- Memory with one byte written, in canonical form. -/
def memSet : Memory → Nat → Byte → Memory
  | [], a, v => if v = unlistedByte a then [] else [(a, v)]
  | (b, u) :: m, a, v =>
    if a < b then (if v = unlistedByte a then (b, u) :: m else (a, v) :: (b, u) :: m)
    else if a = b then (if v = unlistedByte a then m else (a, v) :: m)
    else (b, u) :: memSet m a v

/-- Memory with consecutive bytes written in ascending address order. -/
def memSetBytes : Memory → Nat → List Byte → Memory
  | m, _, [] => m
  | m, a, b :: bs => memSetBytes (memSet m a b) (a + 1) bs

/-- Every address of the list is at least `lo`, below `size`, and above the one before it; no entry is one an unlisted address
reads as. -/
def memWfFrom (size : Nat) : Nat → Memory → Bool
  | _, [] => true
  | lo, (a, v) :: m => decide (lo ≤ a) && decide (a < size) && decide (v ≠ unlistedByte a) && memWfFrom size (a + 1) m

/-- Memory's canonical form: addresses strictly rising, below MEM_SIZE, no redundant entry. -/
def Memory.wf (m : Memory) (size : Nat) : Bool := memWfFrom size 0 m

/-! ### Addresses (20_memory.md R50, R62) -/

/-- The byte an in-range access designates: the address itself, or the address mod MEM_SIZE under OOB_POLICY = wrap (R50). -/
def resolve (s : State) (a : Nat) : Nat :=
  match s.params.oobPolicy with
  | .fault => a
  | .wrap => a % s.params.memSize

/-- The lowest address of base .. base+len-1 that is ≥ MEM_SIZE, where OOB_POLICY = fault makes that a fault (R62). -/
def firstOutside (s : State) (base len : Nat) : Option Nat :=
  match s.params.oobPolicy with
  | .fault => if 0 < len ∧ s.params.memSize < base + len then some (max base s.params.memSize) else none
  | .wrap => none

/-- MemRead(a, 1), after the range check (R9). -/
def loadByte (s : State) (a : Nat) : Byte := memGet s.mem (resolve s a)

/-- MemWrite(a, 1, b), after the range check (R9). -/
def storeByte (a : Nat) (b : Byte) (s : State) : State := { s with mem := memSet s.mem (resolve s a) b }

/-- The bytes at base .. base+len-1, in ascending address order (R62). -/
def loadBytes (s : State) (base len : Nat) : List Byte := (List.range len).map fun k => loadByte s (base + k)

/-- Bytes written from `base` on, in ascending address order (R62). -/
def storeBytes : Nat → List Byte → State → State
  | _, [], s => s
  | a, b :: bs, s => storeBytes (a + 1) bs (storeByte a b s)

/-! ### Registers

A value wider than the register it is written to is taken mod 2 to its width: the `mod 256` and `mod 2^16` of the rules at the
widths of R5 (42_alu.md R126; 10_state.md R27). -/

/-- VF, register 15, which is also the flag output (10_state.md R22). -/
def vf : Reg := 15

/-- V[x] (R20): no register is hardwired or banked (R21). The file has each register of a 4-bit number (`Params.numV_ge`). -/
def readReg (s : State) (x : Reg) : Nat := s.v.getD x.val 0

/-- V[x] <- n. -/
def writeReg (x : Reg) (n : Nat) (s : State) : State := { s with v := s.v.set x.val (n % 2 ^ s.params.vWidth) }

/-- V[k], V[k+1], ... <- the bytes, in ascending order (43_memory_access.md R157). -/
def writeRegsFrom : Nat → List Byte → State → State
  | _, [], s => s
  | k, b :: bs, s => writeRegsFrom (k + 1) bs { s with v := s.v.set k (b.toNat % 2 ^ s.params.vWidth) }

/-- I <- n (R24). -/
def writeIndex (n : Nat) (s : State) : State := { s with index := n % 2 ^ s.params.iWidth }

/-- pc <- n (R25), mod 2^16 at its default width (R27). -/
def writePc (n : Nat) (s : State) : State := { s with pc := n % 2 ^ s.params.pcWidth }

/-- DT <- n (R31). -/
def writeDt (n : Nat) (s : State) : State := { s with dt := n % 2 ^ s.params.timerWidth }

/-- ST <- n (R32). -/
def writeSt (n : Nat) (s : State) : State := { s with st := n % 2 ^ s.params.timerWidth }

/-- fb <- f. -/
def writeFb (f : Framebuffer) (s : State) : State := { s with fb := f }

/-- A taken skip: 2 more on the advanced pc (R27; 41_control_flow.md R104). -/
def skipIf (c : Bool) (s : State) : State := if c then writePc (s.pc + 2) s else s

/-! ### The return stack (10_state.md R28, R29) -/

/-- push(v): the slot at sp, then sp + 1; used only when sp < STACK_DEPTH. -/
def push (n : Nat) (s : State) : State := { s with stack := s.stack.set s.sp (n % 2 ^ s.params.stackEntryWidth), sp := s.sp + 1 }

/-- stack[k]. A slot number ≥ STACK_DEPTH, which no reachable state reads, gives 0 (assumption 16). -/
def stackSlot (s : State) (k : Nat) : Nat := s.stack.getD k 0

/-- pop() into pc: sp - 1, then the slot at sp; used only when sp > 0. The slot keeps its value. -/
def popPc (s : State) : State := { s with sp := s.sp - 1, pc := stackSlot s (s.sp - 1) % 2 ^ s.params.pcWidth }

/-! ### The framebuffer and the key latch -/

/-- A framebuffer of `w` columns and `h` rows with the pixels `f` gives. -/
def gridOf (w h : Nat) (f : Nat → Nat → Bool) : Framebuffer := (List.range w).map fun x => (List.range h).map fun y => f x y

/-- fb[x][y]; a place outside the screen reads as unset. -/
def pixel (f : Framebuffer) (x y : Nat) : Bool := (f.getD x []).getD y false

/-- key[k]; a key the latch does not have reads as released. -/
def keyHeld (s : State) (k : Nat) : Bool := s.key.getD k false

/-- The latch of `n` keys that a list of values gives: a key the list does not reach is released, and what is beyond the `n` is dropped
(DESIGN CHOICE, assumption 18; unsafe where a launch has more keys than the one before it). -/
def fitKeys (n : Nat) (k : Keys) : Keys := (List.range n).map fun j => k.getD j false

/-! ### The random port (R17, R37) -/

/-- The byte the random port supplies next. -/
def drawnByte (s : State) : Byte := Config.randomByte s.draws

/-- The draw is taken: the next one is a fresh byte. -/
def takeDraw (s : State) : State := { s with draws := s.draws + 1 }

/-! ### Conditions (00_scope.md R10) -/

/-- report C(info): a record is appended to diag and nothing else changes (60_exceptions.md R212). -/
def report (c : Condition) (w : Word) (info : Option Nat) (s : State) : State :=
  { s with diag := s.diag ++ [{ code := c, fpc := s.fpc, w := w, info := info }] }

/-- raise Fault(MemoryOutOfRange): the record is written if none is, and the block is halted (R214). That the rest of the
instruction and of the frame step does not happen is said where it is called and by `endSlot`. -/
def raiseFault (w : Option Word) (addr : Nat) (s : State) : State :=
  { s with
    fault := (match s.fault with
      | none => some { kind := .memoryOutOfRange, fpc := s.fpc, w := w, addr := addr }
      | some r => some r)
    halted := true }

/-- A block access: the whole range is checked first; an address outside memory raises the fault and the body has no effect
(20_memory.md R62). -/
def checkRange (base len : Nat) (w : Word) (body : State → State) (s : State) : State :=
  match firstOutside s base len with
  | some a => raiseFault (some w) a s
  | none => body s

end Sys2Proof.Machine
end

