-- ==== Sys2Proof/Machine/Flags.lean ====
section
/-! DEFINITION. Every flag computation (42_alu.md R126 to R133, 44_display.md R176), and the order in which a flag-setting row writes VF and its result (R128). -/

namespace Sys2Proof.Machine

/-- A flag as the value VF takes: 1 or 0. -/
def flagValue (c : Bool) : Nat := if c then 1 else 0

/-- Carry out of the top bit of a register, bit 7 by default: the exact sum is above 2^V_WIDTH - 1, 255 (R126, R129). -/
def carryFlag (s : State) (a b : Nat) : Nat := flagValue (decide (a + b > 2 ^ s.params.vWidth - 1))

/-- The "borrow" flag: a strict unsigned comparison, so equal operands give 0 (R126, R130, R132). -/
def greaterFlag (a b : Nat) : Nat := flagValue (decide (a > b))

/-- The bit a right shift by 1 loses (R131). -/
def lowBitFlag (a : Nat) : Nat := a &&& 1

/-- The bit a left shift by 1 loses, bit 7 by default (R133). -/
def highBitFlag (s : State) (a : Nat) : Nat := a >>> (s.params.vWidth - 1)

/-- The difference of two registers' values mod 2^V_WIDTH, before `writeReg` takes the mod (R126). -/
def difference (s : State) (a b : Nat) : Nat := 2 ^ s.params.vWidth + a - b

/-- `reg[15] := flag; reg[X] := result` in the table's order (R128): under VF_ORDER = sequential the result statement reads the
registers after VF is written; under latched it reads the registers as they were. -/
def flagThenResult (x : Reg) (flag result : State → Nat) (s : State) : State :=
  match s.params.vfOrder with
  | .sequential => writeReg x (result (writeReg vf (flag s) s)) (writeReg vf (flag s) s)
  | .latched => writeReg x (result s) (writeReg vf (flag s) s)

end Sys2Proof.Machine
end

