-- ==== Sys2Proof/Machine/Operands.lean ====
section
/-! DEFINITION. The operand forms (30_encoding.md R66; an immediate is its unsigned number): the addresses I designates, the block of registers V[0..X], and the key operand. -/

namespace Sys2Proof.Machine

/-- The address of byte 0 of an I-based access; byte k is at I + k, an unbounded sum (R7; 43_memory_access.md). -/
def indexAddr (s : State) : Nat := s.index

/-- V[0], ..., V[X] as FX55 stores them, a byte each (R156). -/
def regsUpTo (s : State) (x : Reg) : List Byte := (s.v.take (x.val + 1)).map (BitVec.ofNat 8)

/-- The key a register's value names: none when the value is above 0xF, NUM_KEYS - 1 (45_timers_input.md R193). -/
def keyNumber (s : State) (n : Nat) : Option Nat := if n < s.params.numKeys then some n else none

/-- The least key number whose latch entry is true, if a key is held (R196, decision D30). -/
def firstHeld (k : Keys) : Option Nat := k.findIdx? id

/-- The glyph address FX29 computes (43_memory_access.md R152): from the register's number, or from the low nibble of its value. -/
def glyphAddr (s : State) (x : Reg) : Nat :=
  match s.params.fontPointer with
  | .rawIndex => x.val * s.params.fontGlyphBytes
  | .registerValue => (readReg s x &&& 0x0F) * s.params.fontGlyphBytes

/-- The value FX0A writes when key `k` is the least one held (R196). -/
def keyWaitValue (s : State) (k : Nat) : Nat :=
  match s.params.keyWaitResult with
  | .one => 1
  | .keyCode => k

/-- The hundreds, tens and units digits of a register's value, a byte each (R153). -/
def bcdDigits (n : Nat) : List Byte := [BitVec.ofNat 8 (n / 100), BitVec.ofNat 8 (n / 10 % 10), BitVec.ofNat 8 (n % 10)]

end Sys2Proof.Machine
end

