-- ==== Sys2Proof/Machine/Alu.lean ====
section
/-! DEFINITION. The register, arithmetic, logic, shift and random instructions (42_alu.md). A result is taken mod 2^V_WIDTH, 256 by default, where it is written (R126; `writeReg`). -/

namespace Sys2Proof.Machine

/-- LD Vx, nn (R120). -/
def execLdImm (x : Reg) (nn : Byte) (s : State) : Host.Outcome State Fault Refusal :=
  .next (writeReg x nn.toNat s)

/-- ADD Vx, nn (R121): wraps, no flag. -/
def execAddImm (x : Reg) (nn : Byte) (s : State) : Host.Outcome State Fault Refusal :=
  .next (writeReg x (readReg s x + nn.toNat) s)

/-- LD Vx, Vy (R122). -/
def execLdReg (x y : Reg) (s : State) : Host.Outcome State Fault Refusal :=
  .next (writeReg x (readReg s y) s)

/-- OR Vx, Vy (R123): VF is not reset (R127). -/
def execOrReg (x y : Reg) (s : State) : Host.Outcome State Fault Refusal :=
  .next (writeReg x (readReg s x ||| readReg s y) s)

/-- AND Vx, Vy (R124). -/
def execAndReg (x y : Reg) (s : State) : Host.Outcome State Fault Refusal :=
  .next (writeReg x (readReg s x &&& readReg s y) s)

/-- XOR Vx, Vy (R125). -/
def execXorReg (x y : Reg) (s : State) : Host.Outcome State Fault Refusal :=
  .next (writeReg x (readReg s x ^^^ readReg s y) s)

/-- ADD Vx, Vy (R129): VF is the carry. -/
def execAddReg (x y : Reg) (s : State) : Host.Outcome State Fault Refusal :=
  .next (flagThenResult x (fun t => carryFlag t (readReg t x) (readReg t y)) (fun t => readReg t x + readReg t y) s)

/-- SUB Vx, Vy (R130): VF is V[X] > V[Y]. -/
def execSub (x y : Reg) (s : State) : Host.Outcome State Fault Refusal :=
  .next (flagThenResult x (fun t => greaterFlag (readReg t x) (readReg t y)) (fun t => difference t (readReg t x) (readReg t y)) s)

/-- SHR Vx (R131): V[Y] is not read. -/
def execShr (x _y : Reg) (s : State) : Host.Outcome State Fault Refusal :=
  .next (flagThenResult x (fun t => lowBitFlag (readReg t x)) (fun t => readReg t x >>> 1) s)

/-- SUBN Vx, Vy (R132): VF is V[Y] > V[X]. -/
def execSubn (x y : Reg) (s : State) : Host.Outcome State Fault Refusal :=
  .next (flagThenResult x (fun t => greaterFlag (readReg t y) (readReg t x)) (fun t => difference t (readReg t y) (readReg t x)) s)

/-- SHL Vx (R133): V[Y] is not read. -/
def execShl (x _y : Reg) (s : State) : Host.Outcome State Fault Refusal :=
  .next (flagThenResult x (fun t => highBitFlag t (readReg t x)) (fun t => readReg t x <<< 1) s)

/-- RND Vx, nn (R134): one fresh byte of the random port, masked; the draw is taken whatever NN is. -/
def execRnd (x : Reg) (nn : Byte) (s : State) : Host.Outcome State Fault Refusal :=
  .next (writeReg x (drawnByte s &&& nn).toNat (takeDraw s))

end Sys2Proof.Machine
end

