-- ==== Sys2Proof/Machine/ControlFlow.lean ====
section
/-! DEFINITION. The control flow instructions (41_control_flow.md). On entry pc is the value 40_cycle.md R84 left, and fpc the instruction's own address. -/

namespace Sys2Proof.Machine

/-- RET (R100, R101): pop into pc; with an empty stack, a reported no-op. -/
def execRet (s : State) : Host.Outcome State Fault Refusal :=
  .next (if s.sp = 0 then report .stackUnderflow (encode .ret) none s else popPc s)

/-- JP nnn (R102). -/
def execJp (nnn : BitVec 12) (s : State) : Host.Outcome State Fault Refusal :=
  .next (writePc nnn.toNat s)

/-- CALL nnn (R103): push the advanced pc and jump; with a full stack, a reported no-op without push or jump (decision D10). -/
def execCall (nnn : BitVec 12) (s : State) : Host.Outcome State Fault Refusal :=
  .next (if s.sp < s.params.stackDepth then writePc nnn.toNat (push s.pc s)
    else report .stackOverflow (encode (.call nnn)) none s)

/-- SE Vx, nn (R104). -/
def execSeImm (x : Reg) (nn : Byte) (s : State) : Host.Outcome State Fault Refusal :=
  .next (skipIf (decide (readReg s x = nn.toNat)) s)

/-- SNE Vx, nn (R105). -/
def execSneImm (x : Reg) (nn : Byte) (s : State) : Host.Outcome State Fault Refusal :=
  .next (skipIf (decide (readReg s x ≠ nn.toNat)) s)

/-- SE Vx, Vy (R106). -/
def execSeReg (x y : Reg) (s : State) : Host.Outcome State Fault Refusal :=
  .next (skipIf (decide (readReg s x = readReg s y)) s)

/-- SNE Vx, Vy (R107). -/
def execSneReg (x y : Reg) (s : State) : Host.Outcome State Fault Refusal :=
  .next (skipIf (decide (readReg s x ≠ readReg s y)) s)

/-- JP V0, nnn (R108): the offset register is always V0. -/
def execJpV0 (nnn : BitVec 12) (s : State) : Host.Outcome State Fault Refusal :=
  .next (writePc (nnn.toNat + readReg s 0) s)

end Sys2Proof.Machine
end

