-- ==== Sys2Proof/Machine/Display.lean ====
section
/-! DEFINITION. The framebuffer unit and the display instructions (44_display.md). -/

namespace Sys2Proof.Machine

/-- flip_pixel(x, y, should_set) (R170): the framebuffer after it, and whether a set pixel was turned off. A pixel outside the
screen is dropped, not wrapped (R172). -/
def flipPixel (p : Params) (x y : Nat) (shouldSet : Bool) (f : Framebuffer) : Framebuffer × Bool :=
  if shouldSet = true ∧ x < p.fbWidth ∧ y < p.fbHeight then (f.modify x fun col => col.modify y not, pixel f x y) else (f, false)

/-- A flip inside a draw: the framebuffer so far, and the OR of the collisions so far (R176). -/
def flipInto (p : Params) (x y : Nat) (shouldSet : Bool) (acc : Framebuffer × Bool) : Framebuffer × Bool :=
  ((flipPixel p x y shouldSet acc.1).1, acc.2 || (flipPixel p x y shouldSet acc.1).2)

/-- One sprite row: bit 7 of the byte is the leftmost pixel, at column x0 (R174, decision D6; assumption 14). -/
def drawByte (p : Params) (x0 y : Nat) (b : Byte) (acc : Framebuffer × Bool) : Framebuffer × Bool :=
  (List.range 8).foldl (fun a c => flipInto p (x0 + c) y (b.getLsbD (7 - c)) a) acc

/-- The sprite's rows, from row y on (R175). -/
def drawRows (p : Params) (x0 : Nat) : Nat → List Byte → Framebuffer × Bool → Framebuffer × Bool
  | _, [], acc => acc
  | y, b :: bs, acc => drawRows p x0 (y + 1) bs (drawByte p x0 y b acc)

/-- The column DXYN starts at: V[X] mod FB_WIDTH (R175). -/
def drawCol (s : State) (x : Reg) : Nat := readReg s x % s.params.fbWidth

/-- The row DXYN starts at: V[Y] mod FB_HEIGHT (R175). -/
def drawRow (s : State) (y : Reg) : Nat := readReg s y % s.params.fbHeight

/-- The framebuffer a draw leaves and whether any pixel collided; the coordinates and the sprite are those of `s` (R175, R176). -/
def drawResult (s : State) (x y : Reg) (n : Nat) : Framebuffer × Bool :=
  drawRows s.params (drawCol s x) (drawRow s y) (loadBytes s (indexAddr s) n) (s.fb, false)

/-- CLS (R173): clear() (R171). -/
def execCls (s : State) : Host.Outcome State Fault Refusal :=
  .next (writeFb (blankFb s.params.fbWidth s.params.fbHeight) s)

/-- DRW Vx, Vy, n (R175): VF is written after every pixel; N = 0 reads no memory and checks no address (R177). -/
def execDrw (x y : Reg) (n : Nat) (s : State) : Host.Outcome State Fault Refusal :=
  .next (checkRange (indexAddr s) n (encode (.drw x y n))
    (fun t => writeReg vf (flagValue (drawResult t x y n).2) (writeFb (drawResult t x y n).1 t)) s)

end Sys2Proof.Machine
end

