-- ==== Sys2Proof/Machine/MemoryAccess.lean ====
section
/-! DEFINITION. The index register and memory access instructions (43_memory_access.md). I is never changed by an access (R24). -/

namespace Sys2Proof.Machine

/-- LD I, nnn (R150). -/
def execLdI (nnn : BitVec 12) (s : State) : Host.Outcome State Fault Refusal :=
  .next (writeIndex nnn.toNat s)

/-- ADD I, Vx (R151): mod 2^I_WIDTH, 65536 by default, where it is written; no flag. -/
def execAddI (x : Reg) (s : State) : Host.Outcome State Fault Refusal :=
  .next (writeIndex (s.index + readReg s x) s)

/-- LD F, Vx (R152). -/
def execLdF (x : Reg) (s : State) : Host.Outcome State Fault Refusal :=
  .next (writeIndex (glyphAddr s x) s)

/-- LD B, Vx (R153): hundreds, tens and units at I, I+1, I+2. -/
def execLdB (x : Reg) (s : State) : Host.Outcome State Fault Refusal :=
  .next (checkRange (indexAddr s) 3 (encode (.ldB x)) (storeBytes (indexAddr s) (bcdDigits (readReg s x))) s)

/-- LD [I], Vx (R156): V[0..X] at I .. I+X. -/
def execStoreRegs (x : Reg) (s : State) : Host.Outcome State Fault Refusal :=
  .next (checkRange (indexAddr s) (x.val + 1) (encode (.storeRegs x)) (storeBytes (indexAddr s) (regsUpTo s x)) s)

/-- LD Vx, [I] (R157): V[0..X] from I .. I+X. -/
def execLoadRegs (x : Reg) (s : State) : Host.Outcome State Fault Refusal :=
  .next (checkRange (indexAddr s) (x.val + 1) (encode (.loadRegs x))
    (writeRegsFrom 0 (loadBytes s (indexAddr s) (x.val + 1))) s)

end Sys2Proof.Machine
end

