-- ==== Sys2Proof/Machine/TimersInput.lean ====
section
/-! DEFINITION. The timer and input instructions (45_timers_input.md), and the timer tick of a frame step (10_state.md R33). -/

namespace Sys2Proof.Machine

/-- A timer after one tick: 1 less while greater than 0, floor at 0 (R33). -/
def tick (n : Nat) : Nat := n - 1

/-- The tick at the end of a frame step: it touches only DT and ST (40_cycle.md R80, R90). -/
def tickTimers (s : State) : State := { s with dt := tick s.dt, st := tick s.st }

/-- LD Vx, DT (R190). -/
def execLdVxDT (x : Reg) (s : State) : Host.Outcome State Fault Refusal :=
  .next (writeReg x s.dt s)

/-- LD DT, Vx (R191). -/
def execLdDTVx (x : Reg) (s : State) : Host.Outcome State Fault Refusal :=
  .next (writeDt (readReg s x) s)

/-- LD ST, Vx (R192). -/
def execLdSTVx (x : Reg) (s : State) : Host.Outcome State Fault Refusal :=
  .next (writeSt (readReg s x) s)

/-- SKP Vx (R193, R194): an operand above 0xF is reported and does not skip. -/
def execSkp (x : Reg) (s : State) : Host.Outcome State Fault Refusal :=
  .next (match keyNumber s (readReg s x) with
    | some k => skipIf (keyHeld s k) s
    | none => report .invalidKeyOperand (encode (.skp x)) (some (readReg s x)) s)

/-- SKNP Vx (R193, R195): an operand above 0xF is reported and does not skip. -/
def execSknp (x : Reg) (s : State) : Host.Outcome State Fault Refusal :=
  .next (match keyNumber s (readReg s x) with
    | some k => skipIf (!keyHeld s k) s
    | none => report .invalidKeyOperand (encode (.sknp x)) (some (readReg s x)) s)

/-- LD Vx, K (R196): with a key held, the result; with none, pc back to the instruction's own address (decision D14). -/
def execLdVxK (x : Reg) (s : State) : Host.Outcome State Fault Refusal :=
  .next (match firstHeld s.key with
    | some k => writeReg x (keyWaitValue s k) s
    | none => writePc s.fpc s)

end Sys2Proof.Machine
end

