-- ==== Sys2Proof/Machine/Launch.lean ====
section
/-! DEFINITION. The host's ports: `init` (00_scope.md R13; 70_reset_and_hazards.md R240 to R244) and the key latch (R15). -/

namespace Sys2Proof.Machine

/-- The output of the port `init` (R13, R211 codes 32 and 33). -/
inductive InitResult where
  | success
  | loadError
  | imageTooLarge
  deriving DecidableEq, Repr

/-- The numeric code of a launch that did not succeed (R211). -/
def InitResult.code : InitResult → Option Nat
  | .success => none
  | .loadError => some 32
  | .imageTooLarge => some 33

/-- What `init` returns to the host (R240 to R242). -/
def initResult : Load → InitResult
  | .unreadable => .loadError
  | .image l => if l.image.length ≤ l.params.maxImage then .success else .imageTooLarge

/-- A memory of `size` bytes that are all 0x00, INIT_FILL's default (R5, decision D2; DESIGN CHOICE, assumption 2). -/
def zeroMemory (size : Nat) : Memory := memSetBytes [] 0 (List.replicate (min size fontTable.length) 0x00)

/-- INIT_FILL at the addresses below `size` that it gives a byte to, the last byte where it gives several (R42; assumption 2). -/
def applyFill (size : Nat) : List Host.Cell → Memory → Memory
  | [], m => m
  | (a, b) :: cs, m => applyFill size cs (if a < size then memSet m a b else m)

/-- Memory after a successful init: the fill, then FONT at FONT_BASE, then the image at PROGRAM_BASE (R241). -/
def launchMemory (l : Launch) : Memory :=
  memSetBytes
    (memSetBytes (applyFill l.params.memSize l.fill (zeroMemory l.params.memSize)) l.params.fontBase l.font.toList)
    l.params.programBase l.image

/-- A successful init (R241, R42): every element takes its after-init value, fb the launch's FB_INIT (R243). The key latch is the
host's (R36) and keeps its values, at the launch's NUM_KEYS: a key that the old latch did not have is released until the host writes it,
where R224, R243 and 93_implementation_defined.md U12 leave it open (DESIGN CHOICE, assumption 18; unsafe). -/
def launchState (l : Launch) (s : State) : State :=
  { s with
    v := List.replicate l.params.numV 0x00
    index := 0x0000
    pc := l.params.programBase
    stack := List.replicate l.params.stackDepth 0x0000
    sp := 0
    dt := 0
    st := 0
    mem := launchMemory l
    fb := gridOf l.params.fbWidth l.params.fbHeight (pixel l.fb)
    key := fitKeys l.params.numKeys s.key
    halted := false
    fault := none
    diag := []
    fpc := l.params.programBase
    slot := 0
    params := l.params }

/-- A free number as an optional one below `m`. -/
def optionalOf (m n : Nat) : Option Nat := if n % 2 = 0 then none else some (n / 2 % m)

/-- A free number as a reported condition. -/
def conditionOf (n : Nat) : Condition :=
  match n % 5 with
  | 0 => .pcSaturation
  | 1 => .stackOverflow
  | 2 => .stackUnderflow
  | 3 => .unknownOpcode
  | _ => .invalidKeyOperand

/-- The free fault record of the n-th failed init: none, or any record (assumption 6). -/
def undefinedFault (p : Params) (n : Nat) : Option FaultRecord :=
  if Config.undefinedValue n .fault 0 % 2 = 0 then none
  else some
    { kind := .memoryOutOfRange
      fpc := Config.undefinedValue n .fault 1 % 2 ^ p.pcWidth
      w := (optionalOf 65536 (Config.undefinedValue n .fault 2)).map (BitVec.ofNat 16)
      addr := Config.undefinedValue n .fault 3 }

/-- The free diagnostics log of the n-th failed init: any number of any records (assumption 6). -/
def undefinedDiag (p : Params) (n : Nat) : List DiagRecord :=
  (List.range (Config.undefinedValue n .diag 0)).map fun j =>
    { code := conditionOf (Config.undefinedValue n .diag (4 * j + 1))
      fpc := Config.undefinedValue n .diag (4 * j + 2) % 2 ^ p.pcWidth
      w := BitVec.ofNat 16 (Config.undefinedValue n .diag (4 * j + 3))
      info := optionalOf (2 ^ p.vWidth) (Config.undefinedValue n .diag (4 * j + 4)) }

/-- The state that no rule defines (R215, R240, R244; 93_implementation_defined.md U11): every element of the block's state but
`halted` takes a free value of its type. The key latch is the host's, which alone writes it (R36), and the parameters are a launch's,
so they stay. -/
def undefinedState (n : Nat) (s : State) : State :=
  { s with
    v := (List.range s.params.numV).map fun k => Config.undefinedValue n .v k % 2 ^ s.params.vWidth
    index := Config.undefinedValue n .index 0 % 2 ^ s.params.iWidth
    pc := Config.undefinedValue n .pc 0 % 2 ^ s.params.pcWidth
    stack := (List.range s.params.stackDepth).map fun k => Config.undefinedValue n .stack k % 2 ^ s.params.stackEntryWidth
    sp := Config.undefinedValue n .sp 0 % (s.params.stackDepth + 1)
    dt := Config.undefinedValue n .dt 0 % 2 ^ s.params.timerWidth
    st := Config.undefinedValue n .st 0 % 2 ^ s.params.timerWidth
    mem := memSetBytes [] 0 ((List.range s.params.memSize).map fun a => BitVec.ofNat 8 (Config.undefinedValue n .mem a))
    fb := gridOf s.params.fbWidth s.params.fbHeight fun x y =>
      decide (Config.undefinedValue n .fb (x * s.params.fbHeight + y) % 2 = 1)
    fault := undefinedFault s.params n
    diag := undefinedDiag s.params n }

/-- An init given LoadError: the block is halted, and no other state is defined (R215, R240). -/
def failedInit (s : State) : State :=
  { undefinedState s.failedInits s with halted := true, slot := 0, failedInits := s.failedInits + 1 }

/-- The block before any init, under a launch's parameters and with the host's transactions to come: halted, and no other element of
state has a defined value, the key latch included (R244). -/
def beforeInit (p : Params) (host : List HostAction) : State :=
  { failedInit { State.reset with params := p, fpc := p.programBase } with
    key := (List.range p.numKeys).map fun k => decide (Config.undefinedValue 0 .key k % 2 = 1)
    host := host }

/-- `init` (R240 to R242): a launch, a load failure, or an image the model gives no meaning. -/
def hostInit (load : Load) (s : State) : Host.Outcome State Fault Refusal :=
  match load with
  | .unreadable => .next (failedInit s)
  | .image l => if l.image.length ≤ l.params.maxImage then .next (launchState l s) else .refused .imageTooLarge

/-- The host writes the whole key latch (R36). -/
def hostWriteKeys (k : Keys) (s : State) : State := { s with key := fitKeys s.params.numKeys k }

end Sys2Proof.Machine
end

