-- ==== Sys2Proof/Machine/Cycle.lean ====
section
/-! DEFINITION. The execution cycle and the frame step (40_cycle.md), and the host's turn between frame steps (60_exceptions.md R224). -/

namespace Sys2Proof.Machine

/-- fetch(fpc)'s range check (R83): the address a fetch faults on, if it does. -/
def fetchFault (s : State) : Option Nat := firstOutside s s.fpc 2

/-- fetch(fpc)'s word, big-endian, at any alignment (R83; 20_memory.md R51, R52). -/
def fetchedWord (s : State) : Word := wordOfBytes (loadByte s s.fpc) (loadByte s (s.fpc + 1))

/-- advance_pc(fpc, w) (R84): 2 more, or at PC_TOP and above a PcSaturation report and no advance. -/
def advancePc (w : Word) (s : State) : State :=
  if s.params.pcTop ≤ s.fpc then report .pcSaturation w none s else writePc (s.fpc + 2) s

/-- A cycle's first statement: fpc <- pc (R82). -/
def latchFpc (s : State) : State := { s with fpc := s.pc }

/-- Execute the word (R86): its instruction, or for a word no row matches the Unknown-opcode row (R87). -/
def execWord (w : Word) (s : State) : Host.Outcome State Fault Refusal :=
  match decodeWord w with
  | .ok i => exec i s
  | .error _ => .next (report .unknownOpcode w none s)

/-- One cycle (R82): fetch, which may fault with nothing else happening (R213), then the pc advance, then execute. -/
def cycle (s : State) : Host.Outcome State Fault Refusal :=
  match fetchFault (latchFpc s) with
  | some a => .next (raiseFault none a (latchFpc s))
  | none => execWord (fetchedWord (latchFpc s)) (advancePc (fetchedWord (latchFpc s)) (latchFpc s))

/-- The end of a cycle within its frame step: a fault ends the step without the tick (R89); the last of
its cycles is followed by the tick (R80); any other is followed by the next cycle. -/
def endSlot (s : State) : State :=
  if s.halted then { s with slot := 0 }
  else if s.slot + 1 < s.params.cyclesPerFrame then { s with slot := s.slot + 1 }
  else { tickTimers s with slot := 0 }

/-- One cycle's slot of a frame step. A halted block does nothing (R81). -/
def runSlot (s : State) : Host.Outcome State Fault Refusal :=
  if s.halted then .next s
  else
    match cycle s with
    | .next t => .next (endSlot t)
    | .fault r => .fault r
    | .refused r => .refused r

/-- Between two frame steps the host makes its next pending transaction, one a step of the model, and it may be the call of `step()`;
with none pending, the host calls `step()` (R224; assumption 5). -/
def hostTurn (s : State) : Host.Outcome State Fault Refusal :=
  match s.host with
  | [] => runSlot s
  | .callStep :: rest => runSlot { s with host := rest }
  | .writeKeys k :: rest => .next (hostWriteKeys k { s with host := rest })
  | .init l :: rest => hostInit l { s with host := rest }

/-- The cycles of a frame step, until they are done or a fault halts the block (R80). -/
def frameCycles : Nat → State → Host.Outcome State Fault Refusal
  | 0, s => .next (tickTimers s)
  | n + 1, s =>
    match cycle s with
    | .next t => if t.halted then .next t else frameCycles n t
    | .fault r => .fault r
    | .refused r => .refused r

/-- `step()`, the whole frame step, as R80 writes it. The model's step runs it a cycle at a time. -/
def frameStep (s : State) : Host.Outcome State Fault Refusal :=
  if s.halted then .next s else frameCycles s.params.cyclesPerFrame s

end Sys2Proof.Machine
end

