-- ==== Sys2Proof/Machine/Step.lean ====
section
/-! DEFINITION. One step of the machine: one cycle of a frame step, or between two frame steps one transaction of the host. -/

namespace Sys2Proof.Machine

/-- Inside a frame step the next cycle runs and nothing else happens (40_cycle.md R91); between two, it is the host's turn. -/
def step (s : State) : Host.Outcome State Fault Refusal :=
  if s.slot = 0 then hostTurn s else runSlot s

/-- `s` with one instruction where `step` fetches its next one, for a program loaded from outside the machine (assumption 8): the two
bytes are stored at the fetch address, in memory order; the block is not halted; between two frame steps the host makes no
transaction before the fetch; and a pc whose fetch lies outside memory goes to PROGRAM_BASE. -/
def State.withFetchWord (s : State) (nbits w : Nat) : State :=
  let pc := match firstOutside s s.pc 2 with
    | some _ => s.params.programBase
    | none => s.pc
  storeBytes pc (bytesOfWord (tableWord nbits w)) { s with pc := pc, halted := false, host := if s.slot = 0 then [] else s.host }

end Sys2Proof.Machine
end

