-- ==== Sys2Proof/Machine/Assembler.lean ====
section
/-! DEFINITION. The assembler form of an instruction (30_encoding.md R72 to R74, decision D22): a line's mnemonic and operands, the bytes a line assembles to, the line a word disassembles to, and both as text. Nothing of the machine depends on it. -/

namespace Sys2Proof.Machine

/-- The mnemonics of the assembler column of R67, and the two placing directives of R73. -/
inductive Mnemonic where
  | cls | ret | jp | call | se | sne | ld | add | or | and | xor | sub | shr | subn | shl | rnd | drw | skp | sknp | word | byte
  deriving DecidableEq, Repr

/-- An operand: a register, a number, or a keyword that selects the row (R72). -/
inductive AsmOperand where
  | reg (r : Reg)
  | num (n : Nat)
  | index | delay | sound | key | font | bcd | atIndex
  deriving DecidableEq, Repr

/-- One line: `MNEMONIC operand, operand, ...` (R72). -/
structure AsmLine where
  mnemonic : Mnemonic
  operands : List AsmOperand
  deriving DecidableEq, Repr

/-! ### From a line to bytes -/

/-- A 12-bit number, or an assembly error (R72). -/
def fitNNN (n : Nat) : Option (BitVec 12) := if n < 4096 then some (BitVec.ofNat 12 n) else none

/-- An 8-bit number, or an assembly error (R72). -/
def fitNN (n : Nat) : Option Byte := if n < 256 then some (BitVec.ofNat 8 n) else none

/-- The rows whose operands are two registers. -/
def assembleRegReg (m : Mnemonic) (x y : Reg) : Option Instr :=
  match m with
  | .se => some (.seReg x y)
  | .sne => some (.sneReg x y)
  | .ld => some (.ldReg x y)
  | .add => some (.addReg x y)
  | .or => some (.orReg x y)
  | .and => some (.andReg x y)
  | .xor => some (.xorReg x y)
  | .sub => some (.sub x y)
  | .shr => some (.shr x y)
  | .subn => some (.subn x y)
  | .shl => some (.shl x y)
  | _ => none

/-- The rows whose operands are a register and a number; the register of JP is V0. -/
def assembleRegNum (m : Mnemonic) (x : Reg) (n : Nat) : Option Instr :=
  match m with
  | .se => (fitNN n).map (.seImm x)
  | .sne => (fitNN n).map (.sneImm x)
  | .ld => (fitNN n).map (.ldImm x)
  | .add => (fitNN n).map (.addImm x)
  | .rnd => (fitNN n).map (.rnd x)
  | .jp => if x = 0 then (fitNNN n).map .jpV0 else none
  | _ => none

/-- The rows of LD with a keyword before the register, or after it. -/
def assembleLoad : AsmOperand → AsmOperand → Option Instr
  | .index, .num n => (fitNNN n).map .ldI
  | .reg x, .delay => some (.ldVxDT x)
  | .reg x, .key => some (.ldVxK x)
  | .reg x, .atIndex => some (.loadRegs x)
  | .delay, .reg x => some (.ldDTVx x)
  | .sound, .reg x => some (.ldSTVx x)
  | .font, .reg x => some (.ldF x)
  | .bcd, .reg x => some (.ldB x)
  | .atIndex, .reg x => some (.storeRegs x)
  | _, _ => none

/-- The instruction a line's mnemonic and operands select, or an assembly error (R67, R72). SHR and SHL without a second register
take Y = 0 (R73). The n of DRW is 0..15 (R72); that it is read as nnn and nn are, and is an error above 15, is the model's choice (DESIGN
CHOICE, assumption 17; safe). -/
def assembleInstr (m : Mnemonic) (ops : List AsmOperand) : Option Instr :=
  match ops with
  | [] =>
    match m with
    | .cls => some .cls
    | .ret => some .ret
    | _ => none
  | [.num n] =>
    match m with
    | .jp => (fitNNN n).map .jp
    | .call => (fitNNN n).map .call
    | _ => none
  | [.reg x] =>
    match m with
    | .shr => some (.shr x 0)
    | .shl => some (.shl x 0)
    | .skp => some (.skp x)
    | .sknp => some (.sknp x)
    | _ => none
  | [.reg x, .reg y] => assembleRegReg m x y
  | [.reg x, .num n] => assembleRegNum m x n
  | [.index, .reg x] => if m = .add then some (.addI x) else none
  | [a, b] => if m = .ld then assembleLoad a b else none
  | [.reg x, .reg y, .num n] => if m = .drw ∧ n < 16 then some (.drw x y n) else none
  | _ => none

/-- The bytes that `.byte` places: one, or a list of them (DESIGN CHOICE, assumption 17). -/
def placeBytes : List AsmOperand → Option (List Byte)
  | [] => some []
  | .num n :: ops => do return (← fitNN n) :: (← placeBytes ops)
  | _ => none

/-- The bytes a line assembles to, in memory order, or `none` for an assembly error (R72, R73). R73 writes `.word 0xhhhh` and
`.byte 0xhh`: that their numbers are read as any other is, and are an error where they do not fit, is the model's choice (DESIGN CHOICE,
assumption 17; safe). -/
def assembleLine (l : AsmLine) : Option (List Byte) :=
  match l.mnemonic, l.operands with
  | .word, [.num n] => if n < 65536 then some (bytesOfWord (BitVec.ofNat 16 n)) else none
  | .word, _ => none
  | .byte, [] => none
  | .byte, ops => placeBytes ops
  | m, ops => (assembleInstr m ops).map encodeBytes

/-! ### From a word to a line -/

/-- The line of an instruction, one per row of R67. -/
def instrLine : Instr → AsmLine
  | .cls => ⟨.cls, []⟩
  | .ret => ⟨.ret, []⟩
  | .jp nnn => ⟨.jp, [.num nnn.toNat]⟩
  | .call nnn => ⟨.call, [.num nnn.toNat]⟩
  | .seImm x nn => ⟨.se, [.reg x, .num nn.toNat]⟩
  | .sneImm x nn => ⟨.sne, [.reg x, .num nn.toNat]⟩
  | .seReg x y => ⟨.se, [.reg x, .reg y]⟩
  | .ldImm x nn => ⟨.ld, [.reg x, .num nn.toNat]⟩
  | .addImm x nn => ⟨.add, [.reg x, .num nn.toNat]⟩
  | .ldReg x y => ⟨.ld, [.reg x, .reg y]⟩
  | .orReg x y => ⟨.or, [.reg x, .reg y]⟩
  | .andReg x y => ⟨.and, [.reg x, .reg y]⟩
  | .xorReg x y => ⟨.xor, [.reg x, .reg y]⟩
  | .addReg x y => ⟨.add, [.reg x, .reg y]⟩
  | .sub x y => ⟨.sub, [.reg x, .reg y]⟩
  | .shr x y => ⟨.shr, [.reg x, .reg y]⟩
  | .subn x y => ⟨.subn, [.reg x, .reg y]⟩
  | .shl x y => ⟨.shl, [.reg x, .reg y]⟩
  | .sneReg x y => ⟨.sne, [.reg x, .reg y]⟩
  | .ldI nnn => ⟨.ld, [.index, .num nnn.toNat]⟩
  | .jpV0 nnn => ⟨.jp, [.reg 0, .num nnn.toNat]⟩
  | .rnd x nn => ⟨.rnd, [.reg x, .num nn.toNat]⟩
  | .drw x y n => ⟨.drw, [.reg x, .reg y, .num n]⟩
  | .skp x => ⟨.skp, [.reg x]⟩
  | .sknp x => ⟨.sknp, [.reg x]⟩
  | .ldVxDT x => ⟨.ld, [.reg x, .delay]⟩
  | .ldVxK x => ⟨.ld, [.reg x, .key]⟩
  | .ldDTVx x => ⟨.ld, [.delay, .reg x]⟩
  | .ldSTVx x => ⟨.ld, [.sound, .reg x]⟩
  | .addI x => ⟨.add, [.index, .reg x]⟩
  | .ldF x => ⟨.ld, [.font, .reg x]⟩
  | .ldB x => ⟨.ld, [.bcd, .reg x]⟩
  | .storeRegs x => ⟨.ld, [.atIndex, .reg x]⟩
  | .loadRegs x => ⟨.ld, [.reg x, .atIndex]⟩

/-- The line a disassembler prints: a word that matches no row is `.word 0xhhhh` (R73). -/
def disassemble (w : Word) : AsmLine :=
  match decodeWord w with
  | .ok i => instrLine i
  | .error _ => ⟨.word, [.num w.toNat]⟩

/-! ### Text -/

/-- The names of the mnemonics. -/
def mnemonicNames : List (Mnemonic × List Char) :=
  [(.cls, ['C', 'L', 'S']), (.ret, ['R', 'E', 'T']), (.jp, ['J', 'P']), (.call, ['C', 'A', 'L', 'L']), (.se, ['S', 'E']),
   (.sne, ['S', 'N', 'E']), (.ld, ['L', 'D']), (.add, ['A', 'D', 'D']), (.or, ['O', 'R']), (.and, ['A', 'N', 'D']),
   (.xor, ['X', 'O', 'R']), (.sub, ['S', 'U', 'B']), (.shr, ['S', 'H', 'R']), (.subn, ['S', 'U', 'B', 'N']),
   (.shl, ['S', 'H', 'L']), (.rnd, ['R', 'N', 'D']), (.drw, ['D', 'R', 'W']), (.skp, ['S', 'K', 'P']), (.sknp, ['S', 'K', 'N', 'P']),
   (.word, ['.', 'w', 'o', 'r', 'd']), (.byte, ['.', 'b', 'y', 't', 'e'])]

/-- The operand keywords (R72). -/
def keywordNames : List (AsmOperand × List Char) :=
  [(.index, ['I']), (.delay, ['D', 'T']), (.sound, ['S', 'T']), (.key, ['K']), (.font, ['F']), (.bcd, ['B']), (.atIndex, ['[', 'I', ']'])]

/-- The digits, whose places are their values; hexadecimal letters are read in either case. -/
def digitChars : List Char := ['0', '1', '2', '3', '4', '5', '6', '7', '8', '9', 'A', 'B', 'C', 'D', 'E', 'F']

/-- The value of a digit below `base`. -/
def digitValue (base : Nat) (c : Char) : Option Nat :=
  let k := digitChars.idxOf (if 'a' ≤ c ∧ c ≤ 'f' then Char.ofNat (c.toNat - 32) else c)
  if k < base then some k else none

/-- A digit string as a number. -/
def digitsValue (base : Nat) : Nat → List Char → Option Nat
  | acc, [] => some acc
  | acc, c :: cs => (digitValue base c).bind fun d => digitsValue base (acc * base + d) cs

/-- A number, `0x`-hex or decimal (R72), of one digit or more. R72 says so of nnn and nn: that DRW's n and the numbers of .word and .byte
are read alike, with any count of digits, is the model's choice (DESIGN CHOICE, assumption 17; safe). -/
def parseNumber : List Char → Option Nat
  | [] => none
  | ['0', 'x'] => none
  | '0' :: 'x' :: cs => digitsValue 16 0 cs
  | cs => digitsValue 10 0 cs

/-- A register `V0` to `V9`, `VA` to `VF` (R72). -/
def parseReg : List Char → Option Reg
  | ['V', c] => if h : digitChars.idxOf c < 16 then some ⟨digitChars.idxOf c, h⟩ else none
  | _ => none

/-- One operand. -/
def parseOperand (t : List Char) : Option AsmOperand :=
  match keywordNames.find? (fun p => p.2 == t) with
  | some p => some p.1
  | none =>
    match parseReg t with
    | some r => some (.reg r)
    | none => (parseNumber t).map .num

/-- Text without the spaces it begins and ends with. -/
def trimSpaces (t : List Char) : List Char :=
  ((t.dropWhile fun c => c == ' ').reverse.dropWhile fun c => c == ' ').reverse

/-- The parts between commas. -/
def splitCommas : List Char → List Char → List (List Char)
  | acc, [] => [acc.reverse]
  | acc, c :: cs => if c = ',' then acc.reverse :: splitCommas [] cs else splitCommas (c :: acc) cs

/-- A line of text as a line, or an assembly error (R72). R72 says nothing of white space: that spaces before the mnemonic and around
an operand are free, and that a space inside an operand is an error, is the model's choice (DESIGN CHOICE, assumption 17). -/
def parseLine (t : List Char) : Option AsmLine := do
  let body := t.dropWhile fun c => c == ' '
  let name := body.takeWhile fun c => c != ' '
  let rest := trimSpaces (body.dropWhile fun c => c != ' ')
  let m ← mnemonicNames.find? fun p => p.2 == name
  let ops ← if rest = [] then some [] else (splitCommas [] rest).mapM fun o => parseOperand (trimSpaces o)
  return ⟨m.1, ops⟩

/-- The bytes a line of text assembles to. -/
def assembleText (t : List Char) : Option (List Byte) := (parseLine t).bind assembleLine

/-- A number below 16^k as `0x` and k hexadecimal digits. -/
def hexText (k n : Nat) : List Char :=
  '0' :: 'x' :: (List.range k).reverse.map fun j => digitChars.getD (n / 16 ^ j % 16) '0'

/-- How many hexadecimal digits a line's number has: the width of nnn, nn, a word or a byte; 0 for the row count of DRW. -/
def numberDigits (l : AsmLine) : Nat :=
  match l.mnemonic with
  | .jp | .call => 3
  | .ld => if l.operands.head? = some .index then 3 else 2
  | .word => 4
  | .drw => 0
  | _ => 2

/-- An operand's text; a number of 0 digits is decimal and below 16. -/
def operandText (k : Nat) : AsmOperand → List Char
  | .reg r => ['V', digitChars.getD r.val '0']
  | .num n => if k = 0 then (if n < 10 then [digitChars.getD n '0'] else ['1', digitChars.getD (n - 10) '0']) else hexText k n
  | o => ((keywordNames.find? fun p => decide (p.1 = o)).map Prod.snd).getD []

/-- Operands with a comma and a space between two. -/
def joinOperands : List (List Char) → List Char
  | [] => []
  | [t] => t
  | t :: ts => t ++ ',' :: ' ' :: joinOperands ts

/-- A line's text. -/
def lineText (l : AsmLine) : List Char :=
  ((mnemonicNames.find? fun p => decide (p.1 = l.mnemonic)).map Prod.snd).getD [] ++
    (if l.operands = [] then [] else ' ' :: joinOperands (l.operands.map (operandText (numberDigits l))))

end Sys2Proof.Machine
end

