-- ==== Sys2Proof/Safety.lean ====
section
/-! DEFINITION. What counts as a safe state and a safe run, and the predicates claims are stated with. -/

namespace Sys2Proof.Machine

/-- The framebuffer has the columns and rows of the screen (10_state.md R35). -/
def State.FbFits (s : State) : Prop := s.fb.length = s.params.fbWidth ∧ ∀ col ∈ s.fb, col.length = s.params.fbHeight

/-- The register file and the return stack have their lengths, and every register and slot holds a number of its width (10_state.md R20,
R24, R25, R28, R31, R32; 00_scope.md R5, R7); fpc is an address pc held. -/
structure State.Fits (s : State) : Prop where
  v_length : s.v.length = s.params.numV
  v_lt : ∀ n ∈ s.v, n < 2 ^ s.params.vWidth
  index_lt : s.index < 2 ^ s.params.iWidth
  pc_lt : s.pc < 2 ^ s.params.pcWidth
  stack_length : s.stack.length = s.params.stackDepth
  stack_lt : ∀ n ∈ s.stack, n < 2 ^ s.params.stackEntryWidth
  dt_lt : s.dt < 2 ^ s.params.timerWidth
  st_lt : s.st < 2 ^ s.params.timerWidth
  fpc_lt : s.fpc < 2 ^ s.params.pcWidth

/-- The invariant of the machine: memory keeps its canonical form, so no byte outside MEM_SIZE is ever held (20_memory.md R45); every
register fits its width (10_state.md R20 to R32); sp never leaves [0, STACK_DEPTH] (R30); the framebuffer and the key latch have their
sizes (R35, R36); a frame step never has more than CYCLES_PER_FRAME cycles (40_cycle.md R88); a halted block is between frame steps
(R81, R89); and a recorded fault halts the block (60_exceptions.md R214). -/
structure State.Inv (s : State) : Prop where
  mem_wf : s.mem.wf s.params.memSize = true
  fits : s.Fits
  sp_le : s.sp ≤ s.params.stackDepth
  fb_fits : s.FbFits
  key_length : s.key.length = s.params.numKeys
  slot_lt : s.slot < s.params.cyclesPerFrame
  halted_slot : s.halted = true → s.slot = 0
  fault_halted : s.fault ≠ none → s.halted = true

/-- The safe states: no fault is recorded. "Every claim about a run should take 'no fault recorded' as a premise" (R214). -/
def State.Safe (s : State) : Prop := s.fault = none

/-- The next step runs a cycle: the block is not halted, and no transaction of the host comes first. -/
def State.Runs (s : State) : Prop := s.halted = false ∧ (s.slot = 0 → s.host = [])

/-- The next step runs a cycle, the host's call of `step()` it may begin with included. -/
def State.RunsCycle (s : State) : Prop := s.halted = false ∧ (s.slot = 0 → s.host = [] ∨ ∃ rest, s.host = .callStep :: rest)

/-- The next step is not an init of the host. -/
def State.NoInit (s : State) : Prop := s.slot = 0 → ∀ l rest, s.host ≠ .init l :: rest

/-- The word the next cycle fetches from pc, when the fetch does not fault. -/
def nextWord (s : State) : Word := wordOfBytes (loadByte s s.pc) (loadByte s (s.pc + 1))

/-- The state execution starts from when the cycle fetched word `w` (40_cycle.md R82, R84): fpc is latched, and pc is 2 further, or at
PC_TOP and above unchanged with a PcSaturation record. -/
def advanced (s : State) (w : Word) : State :=
  { s with
    fpc := s.pc
    pc := if s.pc < s.params.pcTop then (s.pc + 2) % 2 ^ s.params.pcWidth else s.pc
    diag := if s.pc < s.params.pcTop then s.diag else s.diag ++ [{ code := .pcSaturation, fpc := s.pc, w := w, info := none }] }

/-- The block access base .. base+len-1 reaches only bytes of memory, or OOB_POLICY = wrap makes it (20_memory.md R50, R62). -/
def InRange (s : State) (len : Nat) : Prop := s.params.oobPolicy = .wrap ∨ len = 0 ∨ s.index + len ≤ s.params.memSize

/-- `i` completes on `s`: V[x] becomes `b`, every other register keeps its value, and nothing else of the state changes. -/
def WritesReg (i : Instr) (s : State) (x : Reg) (b : Nat) : Prop :=
  ∃ t, exec i s = .next t ∧ t = { s with v := t.v } ∧ ∀ k, t.v[k]? = if k = x.val then some b else s.v[k]?

/-- `i` completes on `s`: V[x] becomes `b`, VF the flag `f` unless x is F, every other register keeps its value, and nothing else of
the state changes. -/
def WritesFlagAndReg (i : Instr) (s : State) (x : Reg) (f b : Nat) : Prop :=
  ∃ t, exec i s = .next t ∧ t = { s with v := t.v } ∧
    ∀ k, t.v[k]? = if k = x.val then some b else if k = vf.val then some f else s.v[k]?

/-- What the result statement of a flag-setting row reads in V[k] when the flag is `f` (42_alu.md R128). -/
def afterFlag (s : State) (f : Nat) (k : Reg) : Nat :=
  if s.params.vfOrder = .sequential ∧ k = vf then f else readReg s k

/-- `i` completes on `s`: pc becomes `p`, and nothing else of the state changes. -/
def MovesPc (i : Instr) (s : State) (p : Nat) : Prop :=
  ∃ t, exec i s = .next t ∧ t = { s with pc := t.pc } ∧ t.pc = p

/-- `i` completes on `s`: I becomes `n`, and nothing else of the state changes. -/
def WritesIndex (i : Instr) (s : State) (n : Nat) : Prop :=
  ∃ t, exec i s = .next t ∧ t = { s with index := t.index } ∧ t.index = n

/-- `i` is a reported no-op on `s`: one record of condition `c` is appended to diag, and nothing else of the state changes. -/
def ReportsOnly (i : Instr) (s : State) (c : Condition) (info : Option Nat) : Prop :=
  exec i s = .next { s with diag := s.diag ++ [{ code := c, fpc := s.fpc, w := encode i, info := info }] }

/-- The column the sprite of DXYN starts at (44_display.md R175). -/
def spriteCol (s : State) (x : Reg) : Nat := readReg s x % s.params.fbWidth

/-- The row the sprite of DXYN starts at (R175). -/
def spriteRow (s : State) (y : Reg) : Nat := readReg s y % s.params.fbHeight

/-- The sprite of DXYN asks for a flip of pixel (px, py): the pixel is in the sprite's 8 columns and n rows, and its bit is 1, the most
significant bit leftmost (R174, R175). -/
def SpriteBit (s : State) (x y : Reg) (n px py : Nat) : Bool :=
  decide (spriteCol s x ≤ px) && decide (px < spriteCol s x + 8) && decide (spriteRow s y ≤ py) && decide (py < spriteRow s y + n) &&
    (loadByte s (s.index + (py - spriteRow s y))).getLsbD (7 - (px - spriteCol s x))

/-- The bytes FX55 and FX33 store from I on: V[0..X] (43_memory_access.md R156), and the digits of V[X] (R153). -/
def storedBytes (s : State) : Instr → List Byte
  | .storeRegs x => (List.range (x.val + 1)).map fun k => BitVec.ofNat 8 (readReg s (Fin.ofNat 16 k))
  | .ldB x => [BitVec.ofNat 8 (readReg s x / 100), BitVec.ofNat 8 (readReg s x / 10 % 10), BitVec.ofNat 8 (readReg s x % 10)]
  | .cls | .ret | .jp _ | .call _ | .seImm _ _ | .sneImm _ _ | .seReg _ _ | .sneReg _ _ | .jpV0 _ | .ldImm _ _ | .addImm _ _ => []
  | .ldReg _ _ | .orReg _ _ | .andReg _ _ | .xorReg _ _ | .addReg _ _ | .sub _ _ | .subn _ _ | .shr _ _ | .shl _ _ | .rnd _ _ => []
  | .ldI _ | .addI _ | .ldF _ | .loadRegs _ | .drw _ _ _ | .skp _ | .sknp _ | .ldVxDT _ | .ldVxK _ | .ldDTVx _ | .ldSTVx _ => []

/-- What the access at `a` reads once `bs` is stored from I on: the stored byte where one designates the same address, and what it
read before elsewhere (20_memory.md R57). -/
def byteAfterStore (s : State) (bs : List Byte) (a : Nat) : Byte :=
  match (List.range bs.length).find? fun k => resolve s (s.index + k) == resolve s a with
  | some k => bs.getD k 0
  | none => loadByte s a

/-- The last byte a fill gives to address `a`, and INIT_FILL's default where it gives none (10_state.md R42; assumption 2). -/
def fillByte (fill : List Host.Cell) (a : Nat) : Byte :=
  ((fill.reverse.find? fun c => c.1 == a).map Prod.snd).getD 0x00

/-- DT after the instruction the next cycle fetches: V[X] for FX15, DT itself for any other (45_timers_input.md R191). -/
def dtAfter (s : State) : Nat :=
  match decodeWord (nextWord s) with
  | .ok (.ldDTVx x) => readReg s x % 2 ^ s.params.timerWidth
  | _ => s.dt

/-- ST after the instruction the next cycle fetches: V[X] for FX18, ST itself for any other (R192). -/
def stAfter (s : State) : Nat :=
  match decodeWord (nextWord s) with
  | .ok (.ldSTVx x) => readReg s x % 2 ^ s.params.timerWidth
  | _ => s.st

/-- The registers an instruction reads (the "reads V" column of 10_state.md R23; FX29 reads V[X] under register_value alone, R152). -/
def readsReg (p : Params) : Instr → Reg → Bool
  | .seImm x _, r | .sneImm x _, r | .addImm x _, r | .skp x, r | .sknp x, r => decide (r = x)
  | .ldDTVx x, r | .ldSTVx x, r | .addI x, r | .ldB x, r | .shr x _, r | .shl x _, r => decide (r = x)
  | .ldF x, r => decide (p.fontPointer = .registerValue) && decide (r = x)
  | .seReg x y, r | .sneReg x y, r | .orReg x y, r | .andReg x y, r | .xorReg x y, r => decide (r = x) || decide (r = y)
  | .addReg x y, r | .sub x y, r | .subn x y, r | .drw x y _, r => decide (r = x) || decide (r = y)
  | .ldReg _ y, r => decide (r = y)
  | .jpV0 _, r => decide (r = 0)
  | .storeRegs x, r => decide (r ≤ x)
  | .cls, _ | .ret, _ | .jp _, _ | .call _, _ | .ldImm _ _, _ | .ldI _, _ | .rnd _ _, _ => false
  | .ldVxDT _, _ | .ldVxK _, _ | .loadRegs _, _ => false

/-- The registers an instruction may write (the "writes V" column of R23). -/
def writesReg : Instr → Reg → Bool
  | .ldImm x _, r | .addImm x _, r | .ldReg x _, r | .orReg x _, r | .andReg x _, r | .xorReg x _, r => decide (r = x)
  | .rnd x _, r | .ldVxDT x, r | .ldVxK x, r => decide (r = x)
  | .addReg x _, r | .sub x _, r | .subn x _, r | .shr x _, r | .shl x _, r => decide (r = x) || decide (r = vf)
  | .drw _ _ _, r => decide (r = vf)
  | .loadRegs x, r => decide (r ≤ x)
  | .seImm _ _, _ | .sneImm _ _, _ | .seReg _ _, _ | .sneReg _ _, _ | .jpV0 _, _ | .skp _, _ | .sknp _, _ => false
  | .ldDTVx _, _ | .ldSTVx _, _ | .addI _, _ | .ldF _, _ | .ldB _, _ | .storeRegs _, _ => false
  | .cls, _ | .ret, _ | .jp _, _ | .call _, _ | .ldI _, _ => false

end Sys2Proof.Machine
end

