-- ==== Sys2Proof/Certificates/Slice0/Obligations.lean ====
section
/-! DEFINITION. The statements for the provers, in the order of OBLIGATIONS.json. Each docstring names the rules of spec/ it rests on.

The sizes and widths of R5 are the launch's. Where a rule writes the literal of a default (256, 65536, 0xF, 16, 64, 32, 5), a statement
reads the parameter (2^V_WIDTH, 2^PC_WIDTH or 2^I_WIDTH, NUM_KEYS, STACK_DEPTH, FB_WIDTH, FB_HEIGHT, FONT_GLYPH_BYTES), and a value wider
than the register it is written to is taken mod 2 to its width: the model's choice (assumption 1), and the rule's own words at the default. -/

open Sys2Proof Sys2Proof.Machine

/-! ### Encoding -/

/-- R65 to R68, R71: decoding the bytes of a well-formed instruction gives it back with every operand, and leaves the bytes after it. -/
def Obligations.DecodeOfEncodeIsTheInstruction : Prop :=
  ∀ (i : Instr) (rest : List Byte), i.wellFormed = true → decode (encodeBytes i ++ rest) = .ok (i, rest)

/-- R68: a word selects an instruction exactly when it is that instruction's word, so no word selects two rows and no bit is ignored (that
every constant nibble must match is the spec's decision D9). -/
def Obligations.WordSelectsItsRowExactly : Prop :=
  ∀ (w : Word) (i : Instr), decodeWord w = .ok i ↔ i.wellFormed = true ∧ encode i = w

/-- R69: the words no row matches, class by class, and every other word decodes (the spec's decision D9). -/
def Obligations.UnknownWordsAreTheListedSpace : Prop :=
  ∀ w : Word, decodeWord w = .error (.unknownOpcode w) ↔
    (w.toNat / 4096 = 0x0 ∧ w.toNat ≠ 0x00E0 ∧ w.toNat ≠ 0x00EE) ∨
    (w.toNat / 4096 = 0x5 ∧ w.toNat % 16 ≠ 0) ∨
    (w.toNat / 4096 = 0x8 ∧ w.toNat % 16 ∈ [0x8, 0x9, 0xA, 0xB, 0xC, 0xD, 0xF]) ∨
    (w.toNat / 4096 = 0x9 ∧ w.toNat % 16 ≠ 0) ∨
    (w.toNat / 4096 = 0xE ∧ w.toNat % 256 ∉ [0x9E, 0xA1]) ∨
    (w.toNat / 4096 = 0xF ∧ w.toNat % 256 ∉ [0x07, 0x0A, 0x15, 0x18, 0x1E, 0x29, 0x33, 0x55, 0x65])

/-- R67: words written out from the opcode map, one or two of each family, decode to the instruction they stand for. -/
def Obligations.WrittenWordsDecode : Prop :=
  decode [0x00, 0xEE] = .ok (.ret, []) ∧ decode [0x23, 0x00] = .ok (.call 0x300, []) ∧
  decode [0xB3, 0x0F] = .ok (.jpV0 0x30F, []) ∧ decode [0x63, 0x1A] = .ok (.ldImm 3 0x1A, []) ∧
  decode [0x81, 0x24] = .ok (.addReg 1 2, []) ∧ decode [0x8A, 0xBE] = .ok (.shl 10 11, []) ∧
  decode [0xF7, 0x33] = .ok (.ldB 7, []) ∧ decode [0xDA, 0xB2] = .ok (.drw 10 11 2, []) ∧
  decode [0xE1, 0xA1] = .ok (.sknp 1, []) ∧ decode [0xF2, 0x0A] = .ok (.ldVxK 2, []) ∧
  decode [0x51, 0x21] = .error (.unknownOpcode 0x5121)

/-- R67, R72, R73: every word disassembles to a line that assembles to its two bytes, a word no row matches as .word (the spec's decision
D22). -/
def Obligations.DisassemblyAssemblesBack : Prop := ∀ w : Word, assembleLine (disassemble w) = some (bytesOfWord w)

/-! ### The cycle and the frame step -/

/-- R51, R80, R82, R84, R86: when the two bytes at pc, inside memory, decode to `i`, a step of a block that is not halted is `exec i` on
the state whose fpc is latched and whose pc is advanced (or, at PC_TOP and above, reported and not advanced), and then the end of the
slot; inside a frame step, between two with no transaction of the host pending, and where the host's call of step() is pending. PC_TOP is
the launch's (the spec's decision D3); the slot and the pending transactions are the model's own (assumptions 5 and 11). -/
def Obligations.StepRunsTheDecodedInstruction : Prop :=
  ∀ (s : State) (i : Instr), s.halted = false →
    (s.params.oobPolicy = .wrap ∨ s.pc + 1 < s.params.memSize) →
    decode [loadByte s s.pc, loadByte s (s.pc + 1)] = .ok (i, []) →
    (∀ t, exec i (advanced s (nextWord s)) = .next t → s.Runs → step s = .next (endSlot t)) ∧
    (∀ t rest, s.slot = 0 → s.host = .callStep :: rest →
      exec i (advanced { s with host := rest } (nextWord s)) = .next t → step s = .next (endSlot t))

/-- R87: a word that no row matches changes nothing but pc's advance and the records of the diagnostics log; inside a frame step, between two
with no transaction of the host pending, and where the host's call of step() is pending. PC_TOP is the launch's (the spec's decision D3) and
the record's form is the spec's decision D17; the slot and the pending transactions are the model's own (assumptions 5 and 11). -/
def Obligations.UnknownWordIsReportedAndSkipped : Prop :=
  ∀ (s : State) (e : DecodeError), s.halted = false → (s.params.oobPolicy = .wrap ∨ s.pc + 1 < s.params.memSize) →
    decodeWord (nextWord s) = .error e →
    (s.Runs → step s = .next (endSlot { advanced s (nextWord s) with
      diag := (advanced s (nextWord s)).diag ++ [{ code := .unknownOpcode, fpc := s.pc, w := nextWord s, info := none }] })) ∧
    (∀ rest, s.slot = 0 → s.host = .callStep :: rest → step s = .next (endSlot { advanced s (nextWord s) with
      diag := (advanced s (nextWord s)).diag ++ [{ code := .unknownOpcode, fpc := s.pc, w := nextWord s, info := none }]
      host := rest }))

/-- R83, R89, R213, R214: a fetch outside memory, under OOB_POLICY = fault, halts the block between frame steps and records the first
address outside; pc is not advanced, no record is appended, the timers do not tick, and nothing else changes but that a call of step() the
host had pending is used up. That such a fetch faults and halts is the spec's decisions D1, D18 and D23; the pending calls are the model's
own (assumption 5). -/
def Obligations.FetchOutsideMemoryFaults : Prop :=
  ∀ s : State, s.RunsCycle → s.params.oobPolicy = .fault → s.params.memSize ≤ s.pc + 1 →
    step s = .next { s with
      fpc := s.pc
      halted := true
      slot := 0
      fault := some (s.fault.getD { kind := .memoryOutOfRange, fpc := s.pc, w := none, addr := max s.pc s.params.memSize })
      host := if s.slot = 0 then s.host.tail else s.host }

/-- R81: a halted block does nothing, and a call of step() on it consumes the call alone (the pending calls are the model's own,
assumption 5). -/
def Obligations.HaltedStepIsANoOp : Prop :=
  ∀ s : State, s.halted = true →
    ((s.slot = 0 → s.host = []) → step s = .next s) ∧
    (∀ rest, s.slot = 0 → s.host = .callStep :: rest → step s = .next { s with host := rest }) ∧
    frameStep s = .next s

/-- R80, R81, R88, R89: CYCLES_PER_FRAME steps of the model, ten by default, from between two frame steps, with no transaction of the host
pending, are one step() as R80 writes it: that many cycles and a tick, or the cycles up to a fault and no tick. One cycle a step is the
model's choice (assumption 11). -/
def Obligations.TenStepsAreOneFrameStep : Prop :=
  ∀ s : State, s.slot = 0 → s.host = [] → core.run s.params.cyclesPerFrame s = frameStep s

/-- R31, R32, R33, R80, R89, R90: a step that is not an init and runs no cycle leaves both timers; one that runs a cycle and faults leaves them
too; any other leaves in DT (ST) what its instruction left there, V[X] for FX15 (FX18), less 1 while greater than 0 exactly when the cycle is
the last of its frame step. The count of cycles, slot, is the model's own (assumption 11). -/
def Obligations.TimersTickOncePerFrameStep : Prop :=
  ∀ s t : State, s.Inv → s.NoInit → step s = .next t →
    (¬ s.RunsCycle → t.dt = s.dt ∧ t.st = s.st) ∧
    (s.RunsCycle → t.halted = true → t.dt = s.dt ∧ t.st = s.st) ∧
    (s.RunsCycle → t.halted = false →
      t.dt = (if s.slot + 1 = s.params.cyclesPerFrame then dtAfter s - 1 else dtAfter s) ∧
      t.st = (if s.slot + 1 = s.params.cyclesPerFrame then stAfter s - 1 else stAfter s))

/-- R28, R30, R35, R36, R45, R81, R88, R214: every step keeps the invariant. The memory's list form and slot are the model's own
(assumptions 2 and 11). -/
def Obligations.StepKeepsInvariant : Prop :=
  ∀ s t : State, s.Inv → step s = .next t → t.Inv

/-- The invariant holds after reset; the reset state is the model's choice (assumption 8). -/
def Obligations.ResetMeetsInvariant : Prop := State.reset.Inv

/-- R94, R242: every step answers a next state but the init of an image longer than MAX_IMAGE, which is refused (the spec's decision D21).
A step that faults, R94's one exception, answers a next state too, the halted block with its record: the model's reading (assumption 9). -/
def Obligations.OnlyAnOversizeImageIsRefused : Prop :=
  ∀ s : State, (∃ t, step s = .next t) ∨
    (s.slot = 0 ∧ step s = .refused .imageTooLarge ∧ ∃ l rest, s.host = .init (.image l) :: rest ∧ l.params.maxImage < l.image.length)

/-! ### The host's ports -/

/-- R42, R241, R243: a successful init gives every element its after-init value, whatever the state before it, and meets the invariant. A
byte of memory is the image's, else FONT's, else the last one INIT_FILL gives its address, else 0x00, INIT_FILL's default (assumption 2); a
pixel is FB_INIT's; the key latch is not written, and a key it did not have before reads as released (the model's choice,
assumption 18). INIT_FILL and FB_INIT as launch arguments are the spec's decisions D2 and D19. -/
def Obligations.InitGivesTheAfterInitState : Prop :=
  ∀ (s : State) (l : Launch) (rest : List HostAction), s.slot = 0 → s.host = .init (.image l) :: rest →
    l.image.length ≤ l.params.maxImage →
    ∃ t, step s = .next t ∧ t.v = List.replicate l.params.numV 0 ∧ t.index = 0 ∧ t.pc = l.params.programBase ∧ t.sp = 0 ∧
      t.stack = List.replicate l.params.stackDepth 0 ∧ t.dt = 0 ∧ t.st = 0 ∧
      (∀ x < l.params.fbWidth, ∀ y < l.params.fbHeight, pixel t.fb x y = pixel l.fb x y) ∧
      (∀ k < l.params.numKeys, keyHeld t k = keyHeld s k) ∧ t.halted = false ∧ t.fault = none ∧ t.diag = [] ∧ t.host = rest ∧
      t.params = l.params ∧ t.Inv ∧
      ∀ a < l.params.memSize, memGet t.mem a =
        if l.params.programBase ≤ a ∧ a < l.params.programBase + l.image.length then
          (l.image[a - l.params.programBase]?).getD 0
        else if l.params.fontBase ≤ a ∧ a < l.params.fontBase + l.params.fontBytes then (l.font.toList[a - l.params.fontBase]?).getD 0
        else fillByte l.fill a

/-- R215, R240: an init given LoadError halts the block; what any other element of the block's state holds is not said (the fault record and
the diagnostics log included), but each has its form, and the host's key latch and the launch's parameters stay. That halted is set and the
rest is undefined is the spec's decision D26; what stays is the model's reading (assumption 6). -/
def Obligations.FailedInitHalts : Prop :=
  ∀ (s : State) (rest : List HostAction), s.Inv → s.slot = 0 → s.host = .init .unreadable :: rest →
    ∃ t, step s = .next t ∧ t.halted = true ∧ t.key = s.key ∧ t.params = s.params ∧ t.host = rest ∧ t.Inv

/-- R242: an image longer than MAX_IMAGE is refused (the spec's decision D21). -/
def Obligations.OversizeImageIsRefused : Prop :=
  ∀ (s : State) (l : Launch) (rest : List HostAction), s.slot = 0 → s.host = .init (.image l) :: rest →
    l.params.maxImage < l.image.length → step s = .refused .imageTooLarge

/-- R36, R91: the latch changes only between frame steps, by the host's write, which writes all of it and nothing else; any other step leaves
every key of the latch as it was, and a step inside a frame step makes no transaction of the host. An init is such another step: that one
given LoadError leaves the latch is the model's reading, where R215 and U11 leave the state undefined (assumption 6), and that a key an init
with a larger NUM_KEYS adds reads as released, as a key outside the latch did, is its choice (assumption 18). The list of pending writes is
the model's own (assumption 5). -/
def Obligations.KeyLatchChangesOnlyBetweenFrames : Prop :=
  (∀ (s : State) (k : Keys) (rest : List HostAction), s.slot = 0 → s.host = .writeKeys k :: rest →
    ∃ t, step s = .next t ∧ t = { s with key := t.key, host := rest } ∧
      ∀ j, keyHeld t j = (decide (j < s.params.numKeys) && k.getD j false)) ∧
  (∀ s t : State, step s = .next t → (∀ k rest, s.slot = 0 → s.host ≠ .writeKeys k :: rest) →
    (∀ j < t.params.numKeys, keyHeld t j = keyHeld s j) ∧ (s.NoInit → t.key = s.key)) ∧
  (∀ s t : State, step s = .next t → s.slot ≠ 0 → t.host = s.host)

/-- The reset state is the state a launch of the empty image with the default arguments leaves (R241; the default arguments are assumptions
1, 2, 3, 5 and 7). -/
def Obligations.ResetIsTheLaunchOfTheEmptyImage : Prop :=
  ∀ font : Vector Byte defaultParams.fontBytes, font.toList = fontTable →
    hostInit (.image { image := [], params := defaultParams, font := font, fill := [], fb := [] }) State.reset = .next State.reset

/-! ### Control flow -/

/-- R102, R108: JP NNN and JP V0, NNN change pc alone; the offset register is always V0 (PC_WIDTH is the launch's, assumption 1). -/
def Obligations.JumpsSetPc : Prop :=
  ∀ (s : State) (nnn : BitVec 12),
    MovesPc (.jp nnn) s (nnn.toNat % 2 ^ s.params.pcWidth) ∧
    MovesPc (.jpV0 nnn) s ((nnn.toNat + readReg s 0) % 2 ^ s.params.pcWidth)

/-- R104, R105, R106, R107: each skip adds 2 to the advanced pc, mod 2^PC_WIDTH (2^16 by default, assumption 1), exactly when its comparison
holds, and changes nothing else. -/
def Obligations.SkipsAddTwoWhenTheyHold : Prop :=
  ∀ (s : State) (x y : Reg) (nn : Byte),
    MovesPc (.seImm x nn) s (if readReg s x = nn.toNat then (s.pc + 2) % 2 ^ s.params.pcWidth else s.pc) ∧
    MovesPc (.sneImm x nn) s (if readReg s x = nn.toNat then s.pc else (s.pc + 2) % 2 ^ s.params.pcWidth) ∧
    MovesPc (.seReg x y) s (if readReg s x = readReg s y then (s.pc + 2) % 2 ^ s.params.pcWidth else s.pc) ∧
    MovesPc (.sneReg x y) s (if readReg s x = readReg s y then s.pc else (s.pc + 2) % 2 ^ s.params.pcWidth)

/-- R103: CALL pushes the advanced pc and jumps; with a full stack it reports StackOverflow and does nothing else, the jump included.
That no-op covers the whole instruction is the spec's decision D10, the slot discipline D11; the widths are the launch's (assumption 1). -/
def Obligations.CallPushesOrReports : Prop :=
  ∀ (s : State) (nnn : BitVec 12), s.stack.length = s.params.stackDepth →
    (s.sp < s.params.stackDepth → ∃ t, exec (.call nnn) s = .next t ∧ t = { s with stack := t.stack, sp := s.sp + 1, pc := t.pc } ∧
      t.pc = nnn.toNat % 2 ^ s.params.pcWidth ∧
      ∀ k, t.stack[k]? = if k = s.sp then some (s.pc % 2 ^ s.params.stackEntryWidth) else s.stack[k]?) ∧
    (s.params.stackDepth ≤ s.sp → ReportsOnly (.call nnn) s .stackOverflow none)

/-- R100, R101: RET pops the newest slot into pc, which keeps its value; with an empty stack it reports StackUnderflow and does nothing
else. That no-op covers the whole instruction is the spec's decision D10, that the slot keeps its value D11; PC_WIDTH is the launch's
(assumption 1). -/
def Obligations.RetPopsOrReports : Prop :=
  ∀ s : State,
    (0 < s.sp → exec .ret s = .next { s with sp := s.sp - 1, pc := stackSlot s (s.sp - 1) % 2 ^ s.params.pcWidth }) ∧
    (s.sp = 0 → ReportsOnly .ret s .stackUnderflow none)

/-- R29, R100, R103: from any state with room on the stack, CALL and then RET, run when the stack and sp are as CALL left them, give back
the pc after the CALL and the count, whatever happened to the rest of the state between them (the spec's decision D11), where a slot has
the room of pc, as by default it has (assumption 1). -/
def Obligations.RetReturnsAfterTheCall : Prop :=
  ∀ (s t u : State) (nnn : BitVec 12), s.Fits → s.params.pcWidth ≤ s.params.stackEntryWidth → s.sp < s.params.stackDepth →
    exec (.call nnn) s = .next t → u.stack = t.stack → u.sp = t.sp → u.params = s.params →
    ∃ r, exec .ret u = .next r ∧ r.pc = s.pc ∧ r.sp = s.sp ∧ r = { u with pc := r.pc, sp := r.sp }

/-! ### Registers, arithmetic, logic, shifts and the random port -/

/-- R120, R122, R190: the loads of a register from an immediate, from a register and from DT (the widths are the launch's, assumption 1). -/
def Obligations.LoadsWriteTheirRegister : Prop :=
  ∀ (s : State) (x y : Reg) (nn : Byte), s.Fits →
    WritesReg (.ldImm x nn) s x (nn.toNat % 2 ^ s.params.vWidth) ∧ WritesReg (.ldReg x y) s x (readReg s y) ∧
    WritesReg (.ldVxDT x) s x (s.dt % 2 ^ s.params.vWidth)

/-- R121: ADD Vx, NN wraps mod 2^V_WIDTH (256 by default, assumption 1) and sets no flag. -/
def Obligations.AddImmediateWrapsWithoutFlag : Prop :=
  ∀ (s : State) (x : Reg) (nn : Byte), s.Fits → WritesReg (.addImm x nn) s x ((readReg s x + nn.toNat) % 2 ^ s.params.vWidth)

/-- R123, R124, R125, R127: the logic rows write V[X] bit by bit and do not reset VF. -/
def Obligations.LogicWritesBitByBit : Prop :=
  ∀ (s : State) (x y : Reg), s.Fits →
    WritesReg (.orReg x y) s x (readReg s x ||| readReg s y) ∧
    WritesReg (.andReg x y) s x (readReg s x &&& readReg s y) ∧
    WritesReg (.xorReg x y) s x (readReg s x ^^^ readReg s y)

/-- R128, R129: ADD Vx, Vy, in both orders: VF is the carry of the operands before it, and the result statement reads VF after it is
written under VF_ORDER = sequential, and before it under latched; the two orders are the spec's decision D8, V_WIDTH the launch's (255 and
256 by default; assumption 1). -/
def Obligations.AddRegistersSetsCarry : Prop :=
  ∀ (s : State) (x y : Reg) (f : Nat), s.Fits → f = (if readReg s x + readReg s y > 2 ^ s.params.vWidth - 1 then 1 else 0) →
    WritesFlagAndReg (.addReg x y) s x f ((afterFlag s f x + afterFlag s f y) % 2 ^ s.params.vWidth)

/-- R128, R130, R132: SUB and SUBN, in both orders: VF is a strict comparison, and the difference wraps mod 2^V_WIDTH (256 by default); the
two orders are the spec's decision D8, V_WIDTH the launch's (assumption 1). -/
def Obligations.SubtractionsSetStrictBorrow : Prop :=
  ∀ (s : State) (x y : Reg) (f g : Nat), s.Fits → f = (if readReg s x > readReg s y then 1 else 0) →
    g = (if readReg s y > readReg s x then 1 else 0) →
    WritesFlagAndReg (.sub x y) s x f ((2 ^ s.params.vWidth + afterFlag s f x - afterFlag s f y) % 2 ^ s.params.vWidth) ∧
    WritesFlagAndReg (.subn x y) s x g ((2 ^ s.params.vWidth + afterFlag s g y - afterFlag s g x) % 2 ^ s.params.vWidth)

/-- R128, R131, R133: SHR and SHL, in both orders: VF is the bit shifted out of V[X] (bit 0, and the top bit, 7 by default), and V[Y] is not
read; the two orders are the spec's decision D8, V_WIDTH the launch's (assumption 1). -/
def Obligations.ShiftsSetTheLostBit : Prop :=
  ∀ (s : State) (x y : Reg) (f g : Nat), s.Fits → f = readReg s x % 2 → g = readReg s x / 2 ^ (s.params.vWidth - 1) →
    WritesFlagAndReg (.shr x y) s x f (afterFlag s f x / 2) ∧
    WritesFlagAndReg (.shl x y) s x g (afterFlag s g x * 2 % 2 ^ s.params.vWidth)

/-- R134: RND writes the byte drawn, masked with NN, whatever byte the random port supplies, takes exactly one draw, and changes nothing
else. The port as a draw is the spec's decision D16; the count of draws is the model's own (assumption 4), V_WIDTH the launch's (assumption
1). -/
def Obligations.RandomWritesTheMaskedDraw : Prop :=
  ∀ (s : State) (x : Reg) (nn : Byte), s.Fits → ∃ t, exec (.rnd x nn) s = .next t ∧ t = { s with v := t.v, draws := s.draws + 1 } ∧
    ∀ k, t.v[k]? = if k = x.val then some (((Config.randomByte s.draws).toNat &&& nn.toNat) % 2 ^ s.params.vWidth) else s.v[k]?

/-- The two columns of the table of 10_state.md R23: an instruction leaves every register that is not in its "writes V" column; and a
register that is not in its "reads V" column has no influence on the next state but for its own value. -/
def Obligations.RegisterAccessFollowsTheTable : Prop :=
  ∀ (i : Instr) (s t : State), s.Fits → i.wellFormed = true → exec i s = .next t →
    (∀ k, (∀ r : Reg, r.val = k → writesReg i r = false) → t.v[k]? = s.v[k]?) ∧
    (∀ (r : Reg) n, readsReg s.params i r = false →
      ∃ u, exec i (writeReg r n s) = .next u ∧ u = { t with v := u.v } ∧ ∀ k, k ≠ r.val → u.v[k]? = t.v[k]?)

/-! ### The index register and memory -/

/-- R150, R151: ANNN loads I, and FX1E adds V[X] to it mod 2^I_WIDTH (65536 by default, assumption 1); neither changes anything else, VF
included. -/
def Obligations.LoadAndAddIndexSetI : Prop :=
  ∀ (s : State) (x : Reg) (nnn : BitVec 12),
    WritesIndex (.ldI nnn) s (nnn.toNat % 2 ^ s.params.iWidth) ∧ WritesIndex (.addI x) s ((s.index + readReg s x) % 2 ^ s.params.iWidth)

/-- R152: FX29 sets I, and nothing else, to FONT_GLYPH_BYTES (5 by default) times the register's number or, under register_value, the low
nibble of its value. Both settings are the spec's decision D12; the sizes are the launch's (assumption 1). -/
def Obligations.FontPointerSetsI : Prop :=
  ∀ (s : State) (x : Reg),
    WritesIndex (.ldF x) s ((match s.params.fontPointer with
      | .rawIndex => x.val * s.params.fontGlyphBytes
      | .registerValue => readReg s x % 16 * s.params.fontGlyphBytes) % 2 ^ s.params.iWidth)

/-- R50: the byte an access designates: under OOB_POLICY = fault the one at the address itself, under wrap the one at the address mod
MEM_SIZE; no address inside memory is moved. The two policies are the spec's decision D1. -/
def Obligations.AccessDesignatesTheByteOfThePolicy : Prop :=
  ∀ (s : State) (a : Nat),
    (s.params.oobPolicy = .fault → resolve s a = a ∧ loadByte s a = memGet s.mem a) ∧
    (s.params.oobPolicy = .wrap → resolve s a = a % s.params.memSize ∧ loadByte s a = memGet s.mem (a % s.params.memSize)) ∧
    (a < s.params.memSize → loadByte s a = memGet s.mem a)

/-- R153, R154: BCD-store, with its range in memory (the check is the spec's decision D1), stores the hundreds, tens and units of V[X] at I,
I+1 and I+2, which are exact for a value below 1000, as each of 8 bits is, and changes no other byte and nothing else. A byte takes what is
wider mod 256 (assumption 1). -/
def Obligations.BcdStoresExactDigits : Prop :=
  ∀ (s : State) (x : Reg), s.mem.wf s.params.memSize = true → InRange s 3 →
    ∃ (t : State) (h d u : Nat), exec (.ldB x) s = .next t ∧ t = { s with mem := t.mem } ∧
      100 * h + 10 * d + u = readReg s x ∧ (readReg s x < 1000 → h < 10) ∧ d < 10 ∧ u < 10 ∧
      (memGet t.mem (resolve s s.index)).toNat = h % 256 ∧
      (memGet t.mem (resolve s (s.index + 1))).toNat = d ∧
      (memGet t.mem (resolve s (s.index + 2))).toNat = u ∧
      ∀ a, (∀ k < 3, a ≠ resolve s (s.index + k)) → memGet t.mem a = memGet s.mem a

/-- R156: Store-regs, with its range in memory (the check is the spec's decision D1), stores V[0..X] at I .. I+X, changes no other byte and
nothing else, I included. A byte takes what is wider mod 256 (assumption 1). -/
def Obligations.StoreRegistersWritesTheBlock : Prop :=
  ∀ (s : State) (x : Reg), s.Fits → s.mem.wf s.params.memSize = true → InRange s (x.val + 1) →
    ∃ t, exec (.storeRegs x) s = .next t ∧ t = { s with mem := t.mem } ∧
      (∀ k : Reg, k ≤ x → (memGet t.mem (resolve s (s.index + k.val))).toNat = readReg s k % 256) ∧
      ∀ a, (∀ k : Reg, k ≤ x → a ≠ resolve s (s.index + k.val)) → memGet t.mem a = memGet s.mem a

/-- R157: Load-regs, with its range in memory (the check is the spec's decision D1), loads V[0..X] from I .. I+X and changes nothing else, I
included (V_WIDTH is the launch's, assumption 1). -/
def Obligations.LoadRegistersReadsTheBlock : Prop :=
  ∀ (s : State) (x : Reg), s.Fits → InRange s (x.val + 1) →
    ∃ t, exec (.loadRegs x) s = .next t ∧ t = { s with v := t.v } ∧
      ∀ k, t.v[k]? = if k ≤ x.val then some ((memGet s.mem (resolve s (s.index + k))).toNat % 2 ^ s.params.vWidth) else s.v[k]?

/-- R62, R214: a block access of DXYN, FX33, FX55 or FX65 that would reach outside memory, under OOB_POLICY = fault, has no effect but the
fault: the lowest address of the range outside memory is recorded unless a record stands, and the block is halted. The fault is the spec's
decision D1. -/
def Obligations.BlockAccessOutsideMemoryFaults : Prop :=
  ∀ (s : State) (i : Instr) (len : Nat),
    ((∃ x y n, i = .drw x y n ∧ n < 16 ∧ len = n) ∨ (∃ x, i = .ldB x ∧ len = 3) ∨ (∃ x, i = .storeRegs x ∧ len = x.val + 1) ∨
      (∃ x, i = .loadRegs x ∧ len = x.val + 1)) →
    ¬ InRange s len →
    ∃ a, exec i s = .next { s with
        halted := true
        fault := some (s.fault.getD { kind := .memoryOutOfRange, fpc := s.fpc, w := some (encode i), addr := a }) } ∧
      s.index ≤ a ∧ a < s.index + len ∧ s.params.memSize ≤ a ∧ ∀ b, s.index ≤ b → b < a → b < s.params.memSize

/-- R57, R156, R157: registers stored by FX55 and loaded back by FX65 with the same X and I, in any state whose memory FX55 left, are the
registers stored, where a byte has the room of a register, as by default it has (assumption 1). -/
def Obligations.LoadAfterStoreRestoresRegisters : Prop :=
  ∀ (s t u : State) (x : Reg), s.Fits → u.Fits → s.params.vWidth ≤ 8 → s.mem.wf s.params.memSize = true → InRange s (x.val + 1) →
    exec (.storeRegs x) s = .next t → u.mem = t.mem → u.index = s.index → u.params = s.params →
    ∃ r, exec (.loadRegs x) u = .next r ∧ ∀ k : Reg, k ≤ x → readReg r k = readReg s k

/-- R57, R59, R61: the very next fetch sees what FX33 and FX55 stored, with their range in memory (the check is the spec's decision D1):
wherever pc is, each of the two bytes fetched is the one stored where the two accesses designate the same byte, and is as before elsewhere. -/
def Obligations.FetchSeesTheStore : Prop :=
  ∀ (s t : State) (i : Instr) (x : Reg), s.Fits → i = .storeRegs x ∨ i = .ldB x → s.mem.wf s.params.memSize = true →
    InRange s (storedBytes s i).length → exec i s = .next t →
    nextWord t = wordOfBytes (byteAfterStore s (storedBytes s i) s.pc) (byteAfterStore s (storedBytes s i) (s.pc + 1))

/-- R64: no step but an init changes memory unless its instruction is FX33 or FX55; the font is not refreshed. -/
def Obligations.OnlyStoresChangeMemory : Prop :=
  ∀ s t : State, s.NoInit → step s = .next t →
    (∀ x, decodeWord (nextWord s) ≠ .ok (.ldB x)) → (∀ x, decodeWord (nextWord s) ≠ .ok (.storeRegs x)) → t.mem = s.mem

/-! ### Display -/

/-- R171, R173: CLS leaves every pixel unset and the screen at its size, and changes nothing else. -/
def Obligations.ClearUnsetsEveryPixel : Prop :=
  ∀ s : State, ∃ t, exec .cls s = .next t ∧ t = { s with fb := t.fb } ∧ t.FbFits ∧ ∀ px py, pixel t.fb px py = false

/-- R170, R172, R174 to R176: DXYN, with its range in memory, flips exactly the on-screen pixels the sprite has a 1 bit for, sets VF to 1
exactly when one of them was set, and changes nothing else; pixels outside the screen are dropped. The range check is the spec's decision
D1, the bit order D6, and the latched coordinates D27. -/
def Obligations.DrawFlipsTheSpriteAndFlagsCollision : Prop :=
  ∀ (s : State) (x y : Reg) (n : Nat), s.Fits → s.FbFits → n < 16 → InRange s n →
    ∃ t, exec (.drw x y n) s = .next t ∧ t = { s with v := t.v, fb := t.fb } ∧ t.FbFits ∧
      (∀ px < s.params.fbWidth, ∀ py < s.params.fbHeight, pixel t.fb px py = (pixel s.fb px py ^^ SpriteBit s x y n px py)) ∧
      (∀ k, k ≠ vf.val → t.v[k]? = s.v[k]?) ∧
      ((∃ px < s.params.fbWidth, ∃ py < s.params.fbHeight, SpriteBit s x y n px py = true ∧ pixel s.fb px py = true) →
        readReg t vf = 1) ∧
      (¬ (∃ px < s.params.fbWidth, ∃ py < s.params.fbHeight, SpriteBit s x y n px py = true ∧ pixel s.fb px py = true) →
        readReg t vf = 0)

/-- R170, R175, R176, R177: drawing the same sprite twice at the same start restores the framebuffer, and the second draw sets VF = 1
exactly when the sprite has a 1 bit on screen over a pixel that was unset before the first draw (assumption 10). The start of the second draw
can differ only where X or Y is F, which the first draw writes; it is the same there when VF gives it. -/
def Obligations.DrawTwiceRestoresTheScreen : Prop :=
  ∀ (s t : State) (x y : Reg) (n : Nat), s.Fits → s.FbFits → n < 16 → InRange s n → exec (.drw x y n) s = .next t →
    (x = vf → spriteCol t x = spriteCol s x) → (y = vf → spriteRow t y = spriteRow s y) →
    ∃ u, exec (.drw x y n) t = .next u ∧ u.fb = s.fb ∧
      (readReg u vf = 1 ↔
        ∃ px < s.params.fbWidth, ∃ py < s.params.fbHeight, SpriteBit s x y n px py = true ∧ pixel s.fb px py = false) ∧
      (readReg u vf = 0 ↔
        ∀ px < s.params.fbWidth, ∀ py < s.params.fbHeight, SpriteBit s x y n px py = true → pixel s.fb px py = true)

/-- R177's own sentence, "The second draw sets VF = 1 exactly when the sprite has at least one 1 bit on screen", for every framebuffer. It is
expected to FAIL: by the pseudocode of R175 a pixel that was set before the first draw is turned on again, not off, by the second
(assumption 10; the sentence is one the spec marks as derived). -/
def Obligations.SecondDrawFlagsEverySpriteBit : Prop :=
  ∀ (s t u : State) (x y : Reg) (n : Nat), s.Fits → s.FbFits → n < 16 → InRange s n → x ≠ vf → y ≠ vf →
    exec (.drw x y n) s = .next t → exec (.drw x y n) t = .next u →
    (readReg u vf = 1 ↔ ∃ px < s.params.fbWidth, ∃ py < s.params.fbHeight, SpriteBit s x y n px py = true)

/-- R35, R178: no step but an init changes the framebuffer unless its instruction is 00E0 or DXYN. -/
def Obligations.OnlyDisplayChangesTheScreen : Prop :=
  ∀ s t : State, s.NoInit → step s = .next t →
    decodeWord (nextWord s) ≠ .ok .cls → (∀ x y n, decodeWord (nextWord s) ≠ .ok (.drw x y n)) → t.fb = s.fb

/-! ### Timers and input -/

/-- R191, R192: the timer writes change their timer alone (TIMER_WIDTH is the launch's, assumption 1). -/
def Obligations.TimerWritesSetTheTimer : Prop :=
  ∀ (s : State) (x : Reg),
    exec (.ldDTVx x) s = .next { s with dt := readReg s x % 2 ^ s.params.timerWidth } ∧
    exec (.ldSTVx x) s = .next { s with st := readReg s x % 2 ^ s.params.timerWidth }

/-- R193, R194, R195: with a key operand below NUM_KEYS, the key skips add 2 to pc exactly when that key is (is not) held, and change nothing
else; from NUM_KEYS on they report InvalidKeyOperand with the operand and do nothing else. The rules write 0xF for the highest key number
and 2^16: NUM_KEYS and PC_WIDTH in their place are the model's choice (assumption 1). -/
def Obligations.KeySkipsFollowTheLatch : Prop :=
  ∀ (s : State) (x : Reg),
    (readReg s x < s.params.numKeys →
      MovesPc (.skp x) s (if keyHeld s (readReg s x) = true then (s.pc + 2) % 2 ^ s.params.pcWidth else s.pc) ∧
      MovesPc (.sknp x) s (if keyHeld s (readReg s x) = true then s.pc else (s.pc + 2) % 2 ^ s.params.pcWidth)) ∧
    (s.params.numKeys ≤ readReg s x →
      ReportsOnly (.skp x) s .invalidKeyOperand (some (readReg s x)) ∧ ReportsOnly (.sknp x) s .invalidKeyOperand (some (readReg s x)))

/-- R196: with a key held, FX0A writes 1, or under key_code the least held key's number, to V[X] alone; with none it sets pc back to its
own address and changes nothing else. The byte is the spec's decisions D13 and D30, the address D14. -/
def Obligations.KeyWaitCompletesOnAHeldKey : Prop :=
  ∀ (s : State) (x : Reg), s.Fits → s.key.length = s.params.numKeys →
    (∀ k < s.params.numKeys, keyHeld s k = true → (∀ j < k, keyHeld s j = false) →
      WritesReg (.ldVxK x) s x (match s.params.keyWaitResult with
        | .one => 1
        | .keyCode => k)) ∧
    ((∀ k < s.params.numKeys, keyHeld s k = false) → exec (.ldVxK x) s = .next { s with pc := s.fpc })

/-- R196, R197: a step that runs FX0A with no key held, saturated or not, leaves pc, the registers, memory and the latch, so the next cycle
runs the same FX0A again (the spec's decisions D14 and D15). -/
def Obligations.KeyWaitStaysInPlace : Prop :=
  ∀ (s t : State) (x : Reg), s.Fits → s.RunsCycle → (s.params.oobPolicy = .wrap ∨ s.pc + 1 < s.params.memSize) →
    decodeWord (nextWord s) = .ok (.ldVxK x) → s.key.length = s.params.numKeys → (∀ k < s.params.numKeys, keyHeld s k = false) →
    step s = .next t →
    t.pc = s.pc ∧ t.v = s.v ∧ t.mem = s.mem ∧ t.key = s.key ∧ t.halted = false ∧ nextWord t = nextWord s

/-! ### Rules of the whole machine -/

/-- R28, R29: no instruction but 2NNN and 00EE reads or writes a stack slot or sp: with any other stack and count it does the same to the
rest of the state, and leaves them. -/
def Obligations.OnlyCallAndRetUseTheStack : Prop :=
  ∀ (i : Instr) (s t : State) (k : List Nat) (n : Nat), (∀ nnn, i ≠ .call nnn) → i ≠ .ret → exec i s = .next t →
    exec i { s with stack := k, sp := n } = .next { t with stack := k, sp := n }

/-- R24: no instruction but ANNN, FX1E and FX29 changes I; in particular FX55 and FX65 leave it. -/
def Obligations.OnlyIndexWritersChangeI : Prop :=
  ∀ (i : Instr) (s t : State), (∀ nnn, i ≠ .ldI nnn) → (∀ x, i ≠ .addI x) → (∀ x, i ≠ .ldF x) → exec i s = .next t →
    t.index = s.index

/-- R32: no instruction reads ST: with any other ST, every instruction but FX18 does the same and leaves it, and FX18 does the same. -/
def Obligations.SoundTimerIsNeverRead : Prop :=
  ∀ (i : Instr) (s t : State) (b : Nat), exec i s = .next t →
    exec i { s with st := b } = .next (match i with
      | .ldSTVx _ => t
      | _ => { t with st := b })

/-- R40: the diagnostics log is appended to and never read: an instruction appends the same records to any log and does the same to
the rest of the state (the log is the spec's decision D17). -/
def Obligations.DiagIsAppendedAndNeverRead : Prop :=
  ∀ (i : Instr) (s t : State) (d : List DiagRecord), exec i s = .next t →
    ∃ l, l.length ≤ 1 ∧ t.diag = s.diag ++ l ∧ exec i { s with diag := d } = .next { t with diag := d ++ l }

/-- R213: a step that is not an init appends at most two records; of two, the first is PcSaturation; and when it faults on the fetch it
appends none (the spec's decision D23). -/
def Obligations.StepAppendsAtMostTwoRecords : Prop :=
  ∀ s t : State, s.NoInit → step s = .next t →
    ∃ l, t.diag = s.diag ++ l ∧ l.length ≤ 2 ∧ (∀ a b, l = [a, b] → a.code = .pcSaturation) ∧
      (s.RunsCycle → s.params.oobPolicy = .fault → s.params.memSize ≤ s.pc + 1 → l = [])

/-- R39, R214: a recorded fault stays, and the block stays halted, until an init; from then on no register, timer, pixel or byte of memory changes
(the spec's decisions D1 and D18). -/
def Obligations.FaultHaltsUntilInit : Prop :=
  ∀ (s t : State) (r : FaultRecord), s.Inv → s.fault = some r → s.NoInit → step s = .next t →
    t = { s with host := t.host, key := t.key } ∧ t.fault = some r ∧ t.halted = true

/-- No instruction changes the key latch, the launch's parameters, the host's pending transactions, the frame step's count of cycles or
the count of failed inits; only RND takes a draw; and only a fault halts (R36, R38, R43, R88). The last four but the parameters are the model's own
(assumptions 4, 5, 6 and 11). -/
def Obligations.InstructionsLeaveTheHostsState : Prop :=
  ∀ (i : Instr) (s t : State), exec i s = .next t →
    t.key = s.key ∧ t.params = s.params ∧ t.host = s.host ∧ t.slot = s.slot ∧ t.failedInits = s.failedInits ∧ t.fpc = s.fpc ∧
    ((∀ x nn, i ≠ .rnd x nn) → t.draws = s.draws) ∧ (t.halted = true → s.halted = true ∨ t.fault ≠ none)

/-- R27: under OOB_POLICY = fault, MEM_SIZE, PC_TOP and V_WIDTH no larger than their defaults, pc never passes 0x10FE, and no
return address passes 0xFFF: a step that is not an init keeps both bounds. The spec derives the bound from its decisions D1 and D3. -/
def Obligations.PcNeverPassesItsBound : Prop :=
  ∀ s t : State, s.NoInit → s.params.oobPolicy = .fault → s.params.memSize ≤ 4096 → s.params.pcTop ≤ 0xFFE →
    s.params.vWidth ≤ 8 → s.Fits → s.pc ≤ 0x10FE →
    (∀ k, stackSlot s k ≤ 0xFFF) → step s = .next t →
    t.pc ≤ 0x10FE ∧ ∀ k, stackSlot t k ≤ 0xFFF

/-- R33, R80, R84, R92, R102: a jump to itself changes no register, memory byte, pixel or pc. Beside them, it latches its own address, ends its
slot, lets each timer tick exactly when that slot is its frame step's last, and at PC_TOP and above grows the diagnostics log. PC_TOP is the
launch's (the spec's decision D3); the slot and the pending call of step() it uses up are the model's own (assumptions 5 and 11). -/
def Obligations.SelfJumpChangesNoRegisterMemoryPixelOrPc : Prop :=
  ∀ (s : State) (nnn : BitVec 12), s.Fits → s.RunsCycle → (s.params.oobPolicy = .wrap ∨ s.pc + 1 < s.params.memSize) →
    decodeWord (nextWord s) = .ok (.jp nnn) → nnn.toNat = s.pc →
    step s = .next { s with
      fpc := s.pc
      slot := if s.slot + 1 < s.params.cyclesPerFrame then s.slot + 1 else 0
      dt := if s.slot + 1 < s.params.cyclesPerFrame then s.dt else s.dt - 1
      st := if s.slot + 1 < s.params.cyclesPerFrame then s.st else s.st - 1
      diag := if s.pc < s.params.pcTop then s.diag
        else s.diag ++ [{ code := .pcSaturation, fpc := s.pc, w := nextWord s, info := none }]
      host := if s.slot = 0 then s.host.tail else s.host }
end

