-- ==== Sys2Proof/Laws/Decode.lean ====
section
/-! SUPPORT. Words and fields as numbers: what each word shape is worth, what each field reads, and so what the decoder reads back from each part the encoder wrote. -/

namespace Sys2Proof

theorem append_toNat {m n : Nat} (a : BitVec m) (b : BitVec n) : (a ++ b).toNat = a.toNat * 2 ^ n + b.toNat := by
  rw [BitVec.toNat_append, ← Nat.shiftLeft_add_eq_or_of_lt b.isLt, Nat.shiftLeft_eq]

theorem formNNN_toNat (c : BitVec 4) (nnn : BitVec 12) : (formNNN c nnn).toNat = c.toNat * 4096 + nnn.toNat := by
  rw [formNNN, append_toNat]; norm_num

theorem formXNN_toNat (c : BitVec 4) (x : Reg) (nn : Byte) :
    (formXNN c x nn).toNat = c.toNat * 4096 + x.val * 256 + nn.toNat := by
  rw [formXNN, append_toNat, append_toNat]
  simp only [BitVec.toNat_ofFin]; omega

theorem formXYN_toNat (c : BitVec 4) (x y : Reg) (n : BitVec 4) :
    (formXYN c x y n).toNat = c.toNat * 4096 + x.val * 256 + y.val * 16 + n.toNat := by
  rw [formXYN, append_toNat, append_toNat, append_toNat]
  simp only [BitVec.toNat_ofFin]; omega

theorem fieldClass_toNat (w : Word) : (fieldClass w).toNat = w.toNat / 4096 := by
  have := w.isLt
  rw [fieldClass, BitVec.extractLsb'_toNat, Nat.shiftRight_eq_div_pow]; omega

theorem fieldX_val (w : Word) : (fieldX w).val = w.toNat / 256 % 16 := by
  change (w.extractLsb' 8 4).toNat = _
  rw [BitVec.extractLsb'_toNat, Nat.shiftRight_eq_div_pow]

theorem fieldY_val (w : Word) : (fieldY w).val = w.toNat / 16 % 16 := by
  change (w.extractLsb' 4 4).toNat = _
  rw [BitVec.extractLsb'_toNat, Nat.shiftRight_eq_div_pow]

theorem fieldN_toNat (w : Word) : (fieldN w).toNat = w.toNat % 16 := by
  rw [fieldN, BitVec.extractLsb'_toNat, Nat.shiftRight_eq_div_pow, Nat.pow_zero, Nat.div_one]

theorem fieldNN_toNat (w : Word) : (fieldNN w).toNat = w.toNat % 256 := by
  rw [fieldNN, BitVec.extractLsb'_toNat, Nat.shiftRight_eq_div_pow, Nat.pow_zero, Nat.div_one]

theorem fieldNNN_toNat (w : Word) : (fieldNNN w).toNat = w.toNat % 4096 := by
  rw [fieldNNN, BitVec.extractLsb'_toNat, Nat.shiftRight_eq_div_pow, Nat.pow_zero, Nat.div_one]

@[simp] theorem fieldClass_formNNN (c : BitVec 4) (nnn : BitVec 12) : fieldClass (formNNN c nnn) = c := by
  apply BitVec.eq_of_toNat_eq
  rw [fieldClass_toNat, formNNN_toNat]; omega

@[simp] theorem fieldNNN_formNNN (c : BitVec 4) (nnn : BitVec 12) : fieldNNN (formNNN c nnn) = nnn := by
  apply BitVec.eq_of_toNat_eq
  rw [fieldNNN_toNat, formNNN_toNat]; omega

@[simp] theorem fieldClass_formXNN (c : BitVec 4) (x : Reg) (nn : Byte) : fieldClass (formXNN c x nn) = c := by
  apply BitVec.eq_of_toNat_eq
  rw [fieldClass_toNat, formXNN_toNat]; omega

@[simp] theorem fieldX_formXNN (c : BitVec 4) (x : Reg) (nn : Byte) : fieldX (formXNN c x nn) = x := by
  apply Fin.ext
  rw [fieldX_val, formXNN_toNat]; omega

@[simp] theorem fieldNN_formXNN (c : BitVec 4) (x : Reg) (nn : Byte) : fieldNN (formXNN c x nn) = nn := by
  apply BitVec.eq_of_toNat_eq
  rw [fieldNN_toNat, formXNN_toNat]; omega

@[simp] theorem fieldClass_formXYN (c : BitVec 4) (x y : Reg) (n : BitVec 4) : fieldClass (formXYN c x y n) = c := by
  apply BitVec.eq_of_toNat_eq
  rw [fieldClass_toNat, formXYN_toNat]; omega

@[simp] theorem fieldX_formXYN (c : BitVec 4) (x y : Reg) (n : BitVec 4) : fieldX (formXYN c x y n) = x := by
  apply Fin.ext
  rw [fieldX_val, formXYN_toNat]; omega

@[simp] theorem fieldY_formXYN (c : BitVec 4) (x y : Reg) (n : BitVec 4) : fieldY (formXYN c x y n) = y := by
  apply Fin.ext
  rw [fieldY_val, formXYN_toNat]; omega

@[simp] theorem fieldN_formXYN (c : BitVec 4) (x y : Reg) (n : BitVec 4) : fieldN (formXYN c x y n) = n := by
  apply BitVec.eq_of_toNat_eq
  rw [fieldN_toNat, formXYN_toNat]; omega

theorem wordOfBytes_toNat (hi lo : Byte) : (wordOfBytes hi lo).toNat = hi.toNat * 256 + lo.toNat := by
  rw [wordOfBytes, append_toNat]; norm_num

/-- The two bytes of a word, as fetched back, are the word (20_memory.md R51). -/
theorem wordOfBytes_bytesOfWord (w : Word) : wordOfBytes (w.extractLsb' 8 8) (w.extractLsb' 0 8) = w := by
  have := w.isLt
  apply BitVec.eq_of_toNat_eq
  rw [wordOfBytes_toNat, BitVec.extractLsb'_toNat, BitVec.extractLsb'_toNat, Nat.shiftRight_eq_div_pow,
    Nat.shiftRight_eq_div_pow]
  omega

end Sys2Proof
end

