-- ==== Sys2Proof/Laws/Memory.lean ====
section
/-! SUPPORT. Memory: read after write, the canonical form is kept by every memory operation, and the block writes. -/

namespace Sys2Proof.Machine

theorem memWfFrom_cons {size lo a : Nat} {v : Byte} {m : Memory} :
    memWfFrom size lo ((a, v) :: m) = true ↔ lo ≤ a ∧ a < size ∧ v ≠ unlistedByte a ∧ memWfFrom size (a + 1) m = true := by
  simp [memWfFrom, and_assoc]

theorem memWfFrom_mono {size lo hi : Nat} {m : Memory} (h : memWfFrom size hi m = true) (hle : lo ≤ hi) : memWfFrom size lo m = true := by
  cases m with
  | nil => rfl
  | cons p m =>
    obtain ⟨a, v⟩ := p
    rw [memWfFrom_cons] at h ⊢
    exact ⟨by omega, h.2⟩

/-- An address below every listed one reads as unlisted. -/
theorem memGet_of_lt {size lo : Nat} {m : Memory} (h : memWfFrom size lo m = true) {a : Nat} (ha : a < lo) : memGet m a = unlistedByte a := by
  induction m generalizing lo with
  | nil => rfl
  | cons p m ih =>
    obtain ⟨b, u⟩ := p
    rw [memWfFrom_cons] at h
    rw [memGet, if_neg (by omega)]
    exact ih h.2.2.2 (by omega)

theorem memGet_memSet_from {size lo : Nat} {m : Memory} (h : memWfFrom size lo m = true) (a : Nat) (v : Byte) (b : Nat) :
    memGet (memSet m a v) b = if b = a then v else memGet m b := by
  induction m generalizing lo with
  | nil =>
    unfold memSet
    split_ifs <;> simp_all [memGet]
  | cons p m ih =>
    obtain ⟨c, u⟩ := p
    rw [memWfFrom_cons] at h
    have low : ∀ x, x ≤ c → memGet m x = unlistedByte x := fun x hx => memGet_of_lt h.2.2.2 (by omega)
    unfold memSet
    by_cases hac : a < c
    · have hb : b = a → ¬ b = c := by omega
      rw [if_pos hac]
      split_ifs with hv hba hba
      · subst hba; rw [memGet, if_neg (by omega), low _ (by omega), hv]
      · rfl
      · subst hba; simp [memGet]
      · simp [memGet, hba]
    · rw [if_neg hac]
      by_cases hae : a = c
      · rw [if_pos hae]
        split_ifs with hv hba hba
        · subst hba; rw [low _ (by omega), hv]
        · rw [memGet, if_neg (by omega)]
        · simp [memGet, hba]
        · simp [memGet, hba, hae ▸ hba]
      · rw [if_neg hae, memGet, memGet, ih h.2.2.2]
        split_ifs <;> first | rfl | omega

theorem memWfFrom_memSet {size lo : Nat} {m : Memory} (h : memWfFrom size lo m = true) {a : Nat} (v : Byte) (hlo : lo ≤ a)
    (ha : a < size) : memWfFrom size lo (memSet m a v) = true := by
  induction m generalizing lo with
  | nil =>
    unfold memSet
    split_ifs with hv
    · rfl
    · exact memWfFrom_cons.2 ⟨hlo, ha, hv, rfl⟩
  | cons p m ih =>
    obtain ⟨c, u⟩ := p
    have h' := memWfFrom_cons.1 h
    unfold memSet
    split_ifs with hac hv hae hv
    · exact h
    · exact memWfFrom_cons.2 ⟨hlo, ha, hv, memWfFrom_cons.2 ⟨by omega, h'.2⟩⟩
    · exact memWfFrom_mono h'.2.2.2 (by omega)
    · subst hae; exact memWfFrom_cons.2 ⟨hlo, ha, hv, h'.2.2.2⟩
    · exact memWfFrom_cons.2 ⟨h'.1, h'.2.1, h'.2.2.1, ih h'.2.2.2 (by omega)⟩

/-- Read after write: the written address reads as the value written, every other address as before (20_memory.md R57). -/
theorem memGet_memSet {size : Nat} {m : Memory} (h : m.wf size = true) (a : Nat) (v : Byte) (b : Nat) :
    memGet (memSet m a v) b = if b = a then v else memGet m b :=
  memGet_memSet_from h a v b

/-- A write inside memory keeps the canonical form. -/
theorem memSet_wf {size : Nat} {m : Memory} (h : m.wf size = true) {a : Nat} (v : Byte) (ha : a < size) : (memSet m a v).wf size = true :=
  memWfFrom_memSet h v (Nat.zero_le a) ha

/-- Consecutive writes inside memory keep the canonical form. -/
theorem memSetBytes_wf {size : Nat} {m : Memory} (h : m.wf size = true) {a : Nat} {bs : List Byte} (ha : a + bs.length ≤ size) :
    (memSetBytes m a bs).wf size = true := by
  induction bs generalizing m a with
  | nil => exact h
  | cons b bs ih =>
    rw [List.length_cons] at ha
    exact ih (memSet_wf h b (by omega)) (by omega)

/-- After consecutive writes, the addresses written read as the bytes written, every other address as before. -/
theorem memGet_memSetBytes {size : Nat} {m : Memory} (h : m.wf size = true) {a : Nat} {bs : List Byte} (ha : a + bs.length ≤ size) (b : Nat) :
    memGet (memSetBytes m a bs) b = if a ≤ b then (bs[b - a]?).getD (memGet m b) else memGet m b := by
  induction bs generalizing m a with
  | nil => simp [memSetBytes]
  | cons c bs ih =>
    rw [List.length_cons] at ha
    rw [memSetBytes, ih (memSet_wf h c (by omega)) (by omega), memGet_memSet h]
    by_cases hab : a + 1 ≤ b
    · have h1 : a ≤ b := by omega
      have h2 : ¬ b = a := by omega
      rw [show b - a = (b - (a + 1)) + 1 by omega, List.getElem?_cons_succ]
      simp only [hab, h1, h2, if_true, if_false]
    · rw [if_neg hab]
      by_cases hb : b = a
      · subst hb; simp
      · rw [if_neg hb, if_neg (show ¬ a ≤ b by omega)]

/-- The address an access reaches under OOB_POLICY = fault once the range check has passed, or under wrap, is inside memory. -/
theorem resolve_lt {s : State} {base len k : Nat} (h : firstOutside s base len = none) (hk : k < len) :
    resolve s (base + k) < s.params.memSize := by
  unfold firstOutside at h
  unfold resolve
  split <;> rename_i hp
  · rw [hp] at h
    simp only [ite_eq_right_iff, reduceCtorEq, imp_false, not_and, not_lt] at h
    have := h (by omega)
    omega
  · exact Nat.mod_lt _ (Nat.lt_of_lt_of_le (by decide) s.params.memSize_ge)

/-- A range check passes exactly when the policy is wrap, the range is empty, or the whole range is inside memory. -/
theorem firstOutside_eq_none {s : State} {base len : Nat} :
    firstOutside s base len = none ↔ s.params.oobPolicy = .wrap ∨ len = 0 ∨ base + len ≤ s.params.memSize := by
  unfold firstOutside
  split <;> rename_i hp
  · simp only [hp, reduceCtorEq, ite_eq_right_iff, imp_false, not_and, not_lt, false_or]
    omega
  · simp [hp]

/-- A range check fails with the lowest address of the range that is outside memory (20_memory.md R62). -/
theorem firstOutside_eq_some {s : State} {base len a : Nat} (h : firstOutside s base len = some a) :
    s.params.oobPolicy = .fault ∧ base ≤ a ∧ a < base + len ∧ s.params.memSize ≤ a ∧ ∀ b, base ≤ b → b < a → b < s.params.memSize := by
  unfold firstOutside at h
  split at h <;> rename_i hp
  · simp only [Option.ite_none_right_eq_some, Option.some.injEq] at h
    refine ⟨hp, by omega, by omega, by omega, fun b _ _ => by omega⟩
  · cases h

end Sys2Proof.Machine
end

