-- ==== Sys2Proof/Laws/Display.lean ====
section
/-! SUPPORT. Lemmas about the screen and the key latch, and the memory of a launch: what each of their operations does to one pixel, key or byte, and that the screen keeps its size. -/

namespace Sys2Proof.Machine

/-! ### The screen -/

/-- `f` has `w` columns of `h` pixels. -/
def Framebuffer.Sized (f : Framebuffer) (w h : Nat) : Prop := f.length = w ∧ ∀ col ∈ f, col.length = h

theorem fbFits_iff (s : State) : s.FbFits ↔ s.fb.Sized s.params.fbWidth s.params.fbHeight := Iff.rfl

theorem gridOf_sized (w h : Nat) (f : Nat → Nat → Bool) : (gridOf w h f).Sized w h := by
  refine ⟨by simp [gridOf], fun col hc => ?_⟩
  obtain ⟨x, -, rfl⟩ := List.mem_map.mp hc
  simp

theorem blankFb_sized (w h : Nat) : Framebuffer.Sized (blankFb w h) w h := by
  refine ⟨by simp [blankFb], fun col hc => ?_⟩
  rw [List.eq_of_mem_replicate hc, List.length_replicate]

/-- A place outside the screen reads as unset. -/
theorem pixel_outside {f : Framebuffer} {w h x y : Nat} (hf : f.Sized w h) (hxy : ¬ (x < w ∧ y < h)) : pixel f x y = false := by
  unfold pixel
  rcases Nat.lt_or_ge x f.length with hx | hx
  · have hcol := hf.2 _ (List.getElem_mem hx)
    have hy : h ≤ y := by have := hf.1; omega
    rw [List.getD_eq_getElem?_getD, List.getD_eq_getElem?_getD, List.getElem?_eq_getElem hx, Option.getD_some,
      List.getElem?_eq_none (by omega), Option.getD_none]
  · rw [List.getD_eq_getElem?_getD, List.getD_eq_getElem?_getD, List.getElem?_eq_none hx]
    rfl

theorem pixel_gridOf (w h : Nat) (f : Nat → Nat → Bool) (x y : Nat) :
    pixel (gridOf w h f) x y = (decide (x < w ∧ y < h) && f x y) := by
  by_cases hxy : x < w ∧ y < h
  · simp [pixel, gridOf, List.getD_eq_getElem?_getD, hxy.1, hxy.2]
  · rw [pixel_outside (gridOf_sized w h f) hxy, decide_eq_false hxy, Bool.false_and]

theorem pixel_blankFb (w h x y : Nat) : pixel (blankFb w h) x y = false := by
  by_cases hxy : x < w ∧ y < h
  · simp [pixel, blankFb, List.getD_eq_getElem?_getD, hxy.1, hxy.2]
  · exact pixel_outside (blankFb_sized w h) hxy

/-- Screens of one size with the same pixels are the same. -/
theorem fb_ext {f g : Framebuffer} {w h : Nat} (hf : f.Sized w h) (hg : g.Sized w h)
    (hp : ∀ x < w, ∀ y < h, pixel f x y = pixel g x y) : f = g := by
  refine List.ext_getElem (hf.1.trans hg.1.symm) fun x hx hx' => ?_
  have cf := hf.2 _ (List.getElem_mem hx)
  have cg := hg.2 _ (List.getElem_mem hx')
  refine List.ext_getElem (cf.trans cg.symm) fun y hy hy' => ?_
  have := hp x (hf.1 ▸ hx) y (cf ▸ hy)
  simpa [pixel, List.getD_eq_getElem?_getD, List.getElem?_eq_getElem hx, List.getElem?_eq_getElem hx',
    List.getElem?_eq_getElem hy, List.getElem?_eq_getElem hy'] using this

/-- flip_pixel keeps the screen's size. -/
theorem flipPixel_sized {p : Params} {f : Framebuffer} {w h : Nat} (hf : f.Sized w h) (x y : Nat) (b : Bool) :
    (flipPixel p x y b f).1.Sized w h := by
  unfold flipPixel
  split
  · refine ⟨by rw [List.length_modify]; exact hf.1, fun col hc => ?_⟩
    obtain ⟨j, hj, rfl⟩ := List.getElem_of_mem hc
    rw [List.length_modify] at hj
    have := hf.2 _ (List.getElem_mem hj)
    rw [List.getElem_modify]
    split <;> simp [this]
  · exact hf

/-- flip_pixel flips its pixel, when asked to and on the screen, and no other (44_display.md R170). -/
theorem pixel_flipPixel {p : Params} {f : Framebuffer} (hf : f.Sized p.fbWidth p.fbHeight) (x y : Nat) (b : Bool) (px py : Nat) :
    pixel (flipPixel p x y b f).1 px py =
      (pixel f px py ^^ decide (b = true ∧ x < p.fbWidth ∧ y < p.fbHeight ∧ px = x ∧ py = y)) := by
  unfold flipPixel
  split
  · rename_i hb
    have hx : x < f.length := hf.1 ▸ hb.2.1
    have hy : y < f[x].length := (hf.2 _ (List.getElem_mem hx)).symm ▸ hb.2.2
    by_cases e : px = x
    · subst e
      by_cases e' : py = y
      · subst e'
        simp [pixel, List.getD_eq_getElem?_getD, hx, hy, hb.1, hb.2.1, hb.2.2]
      · simp [pixel, List.getD_eq_getElem?_getD, hx, e', Ne.symm e']
    · simp [pixel, List.getD_eq_getElem?_getD, e, Ne.symm e]
  · rename_i hb
    rw [decide_eq_false (fun h => hb ⟨h.1, h.2.1, h.2.2.1⟩), Bool.xor_false]

/-- flip_pixel reports a collision exactly when it turns a set pixel off (R170). -/
theorem flipPixel_collides (p : Params) (x y : Nat) (b : Bool) (f : Framebuffer) :
    (flipPixel p x y b f).2 = (decide (b = true ∧ x < p.fbWidth ∧ y < p.fbHeight) && pixel f x y) := by
  unfold flipPixel
  split <;> rename_i hb
  · rw [decide_eq_true hb, Bool.true_and]
  · rw [decide_eq_false hb, Bool.false_and]

theorem drawByte_sized {p : Params} {w h : Nat} (x0 y : Nat) (b : Byte) (acc : Framebuffer × Bool) (ha : acc.1.Sized w h) :
    (drawByte p x0 y b acc).1.Sized w h := by
  unfold drawByte
  generalize List.range 8 = l
  induction l generalizing acc with
  | nil => exact ha
  | cons c l ih => exact ih _ (flipPixel_sized ha _ _ _)

theorem drawRows_sized {p : Params} {w h : Nat} (x0 y : Nat) (bs : List Byte) (acc : Framebuffer × Bool) (ha : acc.1.Sized w h) :
    (drawRows p x0 y bs acc).1.Sized w h := by
  induction bs generalizing y acc with
  | nil => exact ha
  | cons b bs ih => exact ih _ _ (drawByte_sized _ _ _ _ ha)

/-- A draw keeps the screen's size. -/
theorem drawResult_sized {s : State} (h : s.FbFits) (x y : Reg) (n : Nat) :
    (drawResult s x y n).1.Sized s.params.fbWidth s.params.fbHeight := drawRows_sized _ _ _ _ h

/-! ### The key latch -/

@[simp] theorem length_fitKeys (n : Nat) (k : Keys) : (fitKeys n k).length = n := by simp [fitKeys]

theorem getD_fitKeys (n : Nat) (k : Keys) (j : Nat) : (fitKeys n k).getD j false = (decide (j < n) && k.getD j false) := by
  by_cases hj : j < n <;> simp [fitKeys, List.getD_eq_getElem?_getD, hj]

theorem keyHeld_hostWriteKeys (k : Keys) (s : State) (j : Nat) :
    keyHeld (hostWriteKeys k s) j = (decide (j < s.params.numKeys) && k.getD j false) := getD_fitKeys _ _ _

/-! ### The memory of a launch -/

theorem zeroMemory_wf (size : Nat) : (zeroMemory size).wf size = true :=
  memSetBytes_wf rfl (by rw [List.length_replicate]; omega)

theorem memGet_zeroMemory {size a : Nat} (ha : a < size) : memGet (zeroMemory size) a = 0x00 := by
  rw [zeroMemory, memGet_memSetBytes (size := size) rfl (by rw [List.length_replicate]; omega), if_pos (Nat.zero_le a), Nat.sub_zero,
    List.getElem?_replicate]
  split
  · rfl
  · rw [Option.getD_none, memGet, unlistedByte, List.getElem?_eq_none (by omega), Option.getD_none]

theorem applyFill_wf {size : Nat} (fill : List Host.Cell) {m : Memory} (h : m.wf size = true) : (applyFill size fill m).wf size = true := by
  induction fill generalizing m with
  | nil => exact h
  | cons c cs ih =>
    refine ih ?_
    split
    · exact memSet_wf h _ ‹_›
    · exact h

/-- After the fill, an address inside memory reads as the last byte the fill gives it, and as before where it gives none. -/
theorem memGet_applyFill {size : Nat} (fill : List Host.Cell) {m : Memory} (h : m.wf size = true) {a : Nat} (ha : a < size) :
    memGet (applyFill size fill m) a = ((fill.reverse.find? fun c => c.1 == a).map Prod.snd).getD (memGet m a) := by
  induction fill generalizing m with
  | nil => rfl
  | cons c cs ih =>
    have hw : (if c.1 < size then memSet m c.1 c.2 else m).wf size = true := by
      split
      · exact memSet_wf h _ ‹_›
      · exact h
    rw [show applyFill size (c :: cs) m = applyFill size cs (if c.1 < size then memSet m c.1 c.2 else m) from rfl, ih hw,
      List.reverse_cons, List.find?_append]
    cases hf : List.find? (fun c => c.1 == a) cs.reverse with
    | some d => simp
    | none =>
      by_cases hc : c.1 = a
      · subst hc
        simp [ha, memGet_memSet h]
      · split <;> simp [hc, memGet_memSet h, Ne.symm hc]

end Sys2Proof.Machine
end

