-- ==== Sys2Proof/Laws/State.lean ====
section
/-! SUPPORT. One lemma per field per update of State: each update changes the fields it names and no other. -/

namespace Sys2Proof.Machine

/-! ### writeReg -/

@[simp] theorem writeReg_v (x : Reg) (n : Nat) (s : State) : (writeReg x n s).v = s.v.set x.val (n % 2 ^ s.params.vWidth) := rfl
@[simp] theorem writeReg_index (x : Reg) (n : Nat) (s : State) : (writeReg x n s).index = s.index := rfl
@[simp] theorem writeReg_pc (x : Reg) (n : Nat) (s : State) : (writeReg x n s).pc = s.pc := rfl
@[simp] theorem writeReg_stack (x : Reg) (n : Nat) (s : State) : (writeReg x n s).stack = s.stack := rfl
@[simp] theorem writeReg_sp (x : Reg) (n : Nat) (s : State) : (writeReg x n s).sp = s.sp := rfl
@[simp] theorem writeReg_dt (x : Reg) (n : Nat) (s : State) : (writeReg x n s).dt = s.dt := rfl
@[simp] theorem writeReg_st (x : Reg) (n : Nat) (s : State) : (writeReg x n s).st = s.st := rfl
@[simp] theorem writeReg_mem (x : Reg) (n : Nat) (s : State) : (writeReg x n s).mem = s.mem := rfl
@[simp] theorem writeReg_fb (x : Reg) (n : Nat) (s : State) : (writeReg x n s).fb = s.fb := rfl
@[simp] theorem writeReg_key (x : Reg) (n : Nat) (s : State) : (writeReg x n s).key = s.key := rfl
@[simp] theorem writeReg_halted (x : Reg) (n : Nat) (s : State) : (writeReg x n s).halted = s.halted := rfl
@[simp] theorem writeReg_fault (x : Reg) (n : Nat) (s : State) : (writeReg x n s).fault = s.fault := rfl
@[simp] theorem writeReg_diag (x : Reg) (n : Nat) (s : State) : (writeReg x n s).diag = s.diag := rfl
@[simp] theorem writeReg_fpc (x : Reg) (n : Nat) (s : State) : (writeReg x n s).fpc = s.fpc := rfl
@[simp] theorem writeReg_slot (x : Reg) (n : Nat) (s : State) : (writeReg x n s).slot = s.slot := rfl
@[simp] theorem writeReg_host (x : Reg) (n : Nat) (s : State) : (writeReg x n s).host = s.host := rfl
@[simp] theorem writeReg_draws (x : Reg) (n : Nat) (s : State) : (writeReg x n s).draws = s.draws := rfl
@[simp] theorem writeReg_failedInits (x : Reg) (n : Nat) (s : State) : (writeReg x n s).failedInits = s.failedInits := rfl
@[simp] theorem writeReg_params (x : Reg) (n : Nat) (s : State) : (writeReg x n s).params = s.params := rfl

/-! ### writeIndex -/

@[simp] theorem writeIndex_v (n : Nat) (s : State) : (writeIndex n s).v = s.v := rfl
@[simp] theorem writeIndex_index (n : Nat) (s : State) : (writeIndex n s).index = n % 2 ^ s.params.iWidth := rfl
@[simp] theorem writeIndex_pc (n : Nat) (s : State) : (writeIndex n s).pc = s.pc := rfl
@[simp] theorem writeIndex_stack (n : Nat) (s : State) : (writeIndex n s).stack = s.stack := rfl
@[simp] theorem writeIndex_sp (n : Nat) (s : State) : (writeIndex n s).sp = s.sp := rfl
@[simp] theorem writeIndex_dt (n : Nat) (s : State) : (writeIndex n s).dt = s.dt := rfl
@[simp] theorem writeIndex_st (n : Nat) (s : State) : (writeIndex n s).st = s.st := rfl
@[simp] theorem writeIndex_mem (n : Nat) (s : State) : (writeIndex n s).mem = s.mem := rfl
@[simp] theorem writeIndex_fb (n : Nat) (s : State) : (writeIndex n s).fb = s.fb := rfl
@[simp] theorem writeIndex_key (n : Nat) (s : State) : (writeIndex n s).key = s.key := rfl
@[simp] theorem writeIndex_halted (n : Nat) (s : State) : (writeIndex n s).halted = s.halted := rfl
@[simp] theorem writeIndex_fault (n : Nat) (s : State) : (writeIndex n s).fault = s.fault := rfl
@[simp] theorem writeIndex_diag (n : Nat) (s : State) : (writeIndex n s).diag = s.diag := rfl
@[simp] theorem writeIndex_fpc (n : Nat) (s : State) : (writeIndex n s).fpc = s.fpc := rfl
@[simp] theorem writeIndex_slot (n : Nat) (s : State) : (writeIndex n s).slot = s.slot := rfl
@[simp] theorem writeIndex_host (n : Nat) (s : State) : (writeIndex n s).host = s.host := rfl
@[simp] theorem writeIndex_draws (n : Nat) (s : State) : (writeIndex n s).draws = s.draws := rfl
@[simp] theorem writeIndex_failedInits (n : Nat) (s : State) : (writeIndex n s).failedInits = s.failedInits := rfl
@[simp] theorem writeIndex_params (n : Nat) (s : State) : (writeIndex n s).params = s.params := rfl

/-! ### writePc -/

@[simp] theorem writePc_v (n : Nat) (s : State) : (writePc n s).v = s.v := rfl
@[simp] theorem writePc_index (n : Nat) (s : State) : (writePc n s).index = s.index := rfl
@[simp] theorem writePc_pc (n : Nat) (s : State) : (writePc n s).pc = n % 2 ^ s.params.pcWidth := rfl
@[simp] theorem writePc_stack (n : Nat) (s : State) : (writePc n s).stack = s.stack := rfl
@[simp] theorem writePc_sp (n : Nat) (s : State) : (writePc n s).sp = s.sp := rfl
@[simp] theorem writePc_dt (n : Nat) (s : State) : (writePc n s).dt = s.dt := rfl
@[simp] theorem writePc_st (n : Nat) (s : State) : (writePc n s).st = s.st := rfl
@[simp] theorem writePc_mem (n : Nat) (s : State) : (writePc n s).mem = s.mem := rfl
@[simp] theorem writePc_fb (n : Nat) (s : State) : (writePc n s).fb = s.fb := rfl
@[simp] theorem writePc_key (n : Nat) (s : State) : (writePc n s).key = s.key := rfl
@[simp] theorem writePc_halted (n : Nat) (s : State) : (writePc n s).halted = s.halted := rfl
@[simp] theorem writePc_fault (n : Nat) (s : State) : (writePc n s).fault = s.fault := rfl
@[simp] theorem writePc_diag (n : Nat) (s : State) : (writePc n s).diag = s.diag := rfl
@[simp] theorem writePc_fpc (n : Nat) (s : State) : (writePc n s).fpc = s.fpc := rfl
@[simp] theorem writePc_slot (n : Nat) (s : State) : (writePc n s).slot = s.slot := rfl
@[simp] theorem writePc_host (n : Nat) (s : State) : (writePc n s).host = s.host := rfl
@[simp] theorem writePc_draws (n : Nat) (s : State) : (writePc n s).draws = s.draws := rfl
@[simp] theorem writePc_failedInits (n : Nat) (s : State) : (writePc n s).failedInits = s.failedInits := rfl
@[simp] theorem writePc_params (n : Nat) (s : State) : (writePc n s).params = s.params := rfl

/-! ### writeDt -/

@[simp] theorem writeDt_v (n : Nat) (s : State) : (writeDt n s).v = s.v := rfl
@[simp] theorem writeDt_index (n : Nat) (s : State) : (writeDt n s).index = s.index := rfl
@[simp] theorem writeDt_pc (n : Nat) (s : State) : (writeDt n s).pc = s.pc := rfl
@[simp] theorem writeDt_stack (n : Nat) (s : State) : (writeDt n s).stack = s.stack := rfl
@[simp] theorem writeDt_sp (n : Nat) (s : State) : (writeDt n s).sp = s.sp := rfl
@[simp] theorem writeDt_dt (n : Nat) (s : State) : (writeDt n s).dt = n % 2 ^ s.params.timerWidth := rfl
@[simp] theorem writeDt_st (n : Nat) (s : State) : (writeDt n s).st = s.st := rfl
@[simp] theorem writeDt_mem (n : Nat) (s : State) : (writeDt n s).mem = s.mem := rfl
@[simp] theorem writeDt_fb (n : Nat) (s : State) : (writeDt n s).fb = s.fb := rfl
@[simp] theorem writeDt_key (n : Nat) (s : State) : (writeDt n s).key = s.key := rfl
@[simp] theorem writeDt_halted (n : Nat) (s : State) : (writeDt n s).halted = s.halted := rfl
@[simp] theorem writeDt_fault (n : Nat) (s : State) : (writeDt n s).fault = s.fault := rfl
@[simp] theorem writeDt_diag (n : Nat) (s : State) : (writeDt n s).diag = s.diag := rfl
@[simp] theorem writeDt_fpc (n : Nat) (s : State) : (writeDt n s).fpc = s.fpc := rfl
@[simp] theorem writeDt_slot (n : Nat) (s : State) : (writeDt n s).slot = s.slot := rfl
@[simp] theorem writeDt_host (n : Nat) (s : State) : (writeDt n s).host = s.host := rfl
@[simp] theorem writeDt_draws (n : Nat) (s : State) : (writeDt n s).draws = s.draws := rfl
@[simp] theorem writeDt_failedInits (n : Nat) (s : State) : (writeDt n s).failedInits = s.failedInits := rfl
@[simp] theorem writeDt_params (n : Nat) (s : State) : (writeDt n s).params = s.params := rfl

/-! ### writeSt -/

@[simp] theorem writeSt_v (n : Nat) (s : State) : (writeSt n s).v = s.v := rfl
@[simp] theorem writeSt_index (n : Nat) (s : State) : (writeSt n s).index = s.index := rfl
@[simp] theorem writeSt_pc (n : Nat) (s : State) : (writeSt n s).pc = s.pc := rfl
@[simp] theorem writeSt_stack (n : Nat) (s : State) : (writeSt n s).stack = s.stack := rfl
@[simp] theorem writeSt_sp (n : Nat) (s : State) : (writeSt n s).sp = s.sp := rfl
@[simp] theorem writeSt_dt (n : Nat) (s : State) : (writeSt n s).dt = s.dt := rfl
@[simp] theorem writeSt_st (n : Nat) (s : State) : (writeSt n s).st = n % 2 ^ s.params.timerWidth := rfl
@[simp] theorem writeSt_mem (n : Nat) (s : State) : (writeSt n s).mem = s.mem := rfl
@[simp] theorem writeSt_fb (n : Nat) (s : State) : (writeSt n s).fb = s.fb := rfl
@[simp] theorem writeSt_key (n : Nat) (s : State) : (writeSt n s).key = s.key := rfl
@[simp] theorem writeSt_halted (n : Nat) (s : State) : (writeSt n s).halted = s.halted := rfl
@[simp] theorem writeSt_fault (n : Nat) (s : State) : (writeSt n s).fault = s.fault := rfl
@[simp] theorem writeSt_diag (n : Nat) (s : State) : (writeSt n s).diag = s.diag := rfl
@[simp] theorem writeSt_fpc (n : Nat) (s : State) : (writeSt n s).fpc = s.fpc := rfl
@[simp] theorem writeSt_slot (n : Nat) (s : State) : (writeSt n s).slot = s.slot := rfl
@[simp] theorem writeSt_host (n : Nat) (s : State) : (writeSt n s).host = s.host := rfl
@[simp] theorem writeSt_draws (n : Nat) (s : State) : (writeSt n s).draws = s.draws := rfl
@[simp] theorem writeSt_failedInits (n : Nat) (s : State) : (writeSt n s).failedInits = s.failedInits := rfl
@[simp] theorem writeSt_params (n : Nat) (s : State) : (writeSt n s).params = s.params := rfl

/-! ### writeFb -/

@[simp] theorem writeFb_v (f : Framebuffer) (s : State) : (writeFb f s).v = s.v := rfl
@[simp] theorem writeFb_index (f : Framebuffer) (s : State) : (writeFb f s).index = s.index := rfl
@[simp] theorem writeFb_pc (f : Framebuffer) (s : State) : (writeFb f s).pc = s.pc := rfl
@[simp] theorem writeFb_stack (f : Framebuffer) (s : State) : (writeFb f s).stack = s.stack := rfl
@[simp] theorem writeFb_sp (f : Framebuffer) (s : State) : (writeFb f s).sp = s.sp := rfl
@[simp] theorem writeFb_dt (f : Framebuffer) (s : State) : (writeFb f s).dt = s.dt := rfl
@[simp] theorem writeFb_st (f : Framebuffer) (s : State) : (writeFb f s).st = s.st := rfl
@[simp] theorem writeFb_mem (f : Framebuffer) (s : State) : (writeFb f s).mem = s.mem := rfl
@[simp] theorem writeFb_fb (f : Framebuffer) (s : State) : (writeFb f s).fb = f := rfl
@[simp] theorem writeFb_key (f : Framebuffer) (s : State) : (writeFb f s).key = s.key := rfl
@[simp] theorem writeFb_halted (f : Framebuffer) (s : State) : (writeFb f s).halted = s.halted := rfl
@[simp] theorem writeFb_fault (f : Framebuffer) (s : State) : (writeFb f s).fault = s.fault := rfl
@[simp] theorem writeFb_diag (f : Framebuffer) (s : State) : (writeFb f s).diag = s.diag := rfl
@[simp] theorem writeFb_fpc (f : Framebuffer) (s : State) : (writeFb f s).fpc = s.fpc := rfl
@[simp] theorem writeFb_slot (f : Framebuffer) (s : State) : (writeFb f s).slot = s.slot := rfl
@[simp] theorem writeFb_host (f : Framebuffer) (s : State) : (writeFb f s).host = s.host := rfl
@[simp] theorem writeFb_draws (f : Framebuffer) (s : State) : (writeFb f s).draws = s.draws := rfl
@[simp] theorem writeFb_failedInits (f : Framebuffer) (s : State) : (writeFb f s).failedInits = s.failedInits := rfl
@[simp] theorem writeFb_params (f : Framebuffer) (s : State) : (writeFb f s).params = s.params := rfl

/-! ### storeByte -/

@[simp] theorem storeByte_v (a : Nat) (b : Byte) (s : State) : (storeByte a b s).v = s.v := rfl
@[simp] theorem storeByte_index (a : Nat) (b : Byte) (s : State) : (storeByte a b s).index = s.index := rfl
@[simp] theorem storeByte_pc (a : Nat) (b : Byte) (s : State) : (storeByte a b s).pc = s.pc := rfl
@[simp] theorem storeByte_stack (a : Nat) (b : Byte) (s : State) : (storeByte a b s).stack = s.stack := rfl
@[simp] theorem storeByte_sp (a : Nat) (b : Byte) (s : State) : (storeByte a b s).sp = s.sp := rfl
@[simp] theorem storeByte_dt (a : Nat) (b : Byte) (s : State) : (storeByte a b s).dt = s.dt := rfl
@[simp] theorem storeByte_st (a : Nat) (b : Byte) (s : State) : (storeByte a b s).st = s.st := rfl
@[simp] theorem storeByte_mem (a : Nat) (b : Byte) (s : State) : (storeByte a b s).mem = memSet s.mem (resolve s a) b := rfl
@[simp] theorem storeByte_fb (a : Nat) (b : Byte) (s : State) : (storeByte a b s).fb = s.fb := rfl
@[simp] theorem storeByte_key (a : Nat) (b : Byte) (s : State) : (storeByte a b s).key = s.key := rfl
@[simp] theorem storeByte_halted (a : Nat) (b : Byte) (s : State) : (storeByte a b s).halted = s.halted := rfl
@[simp] theorem storeByte_fault (a : Nat) (b : Byte) (s : State) : (storeByte a b s).fault = s.fault := rfl
@[simp] theorem storeByte_diag (a : Nat) (b : Byte) (s : State) : (storeByte a b s).diag = s.diag := rfl
@[simp] theorem storeByte_fpc (a : Nat) (b : Byte) (s : State) : (storeByte a b s).fpc = s.fpc := rfl
@[simp] theorem storeByte_slot (a : Nat) (b : Byte) (s : State) : (storeByte a b s).slot = s.slot := rfl
@[simp] theorem storeByte_host (a : Nat) (b : Byte) (s : State) : (storeByte a b s).host = s.host := rfl
@[simp] theorem storeByte_draws (a : Nat) (b : Byte) (s : State) : (storeByte a b s).draws = s.draws := rfl
@[simp] theorem storeByte_failedInits (a : Nat) (b : Byte) (s : State) : (storeByte a b s).failedInits = s.failedInits := rfl
@[simp] theorem storeByte_params (a : Nat) (b : Byte) (s : State) : (storeByte a b s).params = s.params := rfl

/-! ### push -/

@[simp] theorem push_v (n : Nat) (s : State) : (push n s).v = s.v := rfl
@[simp] theorem push_index (n : Nat) (s : State) : (push n s).index = s.index := rfl
@[simp] theorem push_pc (n : Nat) (s : State) : (push n s).pc = s.pc := rfl
@[simp] theorem push_stack (n : Nat) (s : State) : (push n s).stack = s.stack.set s.sp (n % 2 ^ s.params.stackEntryWidth) := rfl
@[simp] theorem push_sp (n : Nat) (s : State) : (push n s).sp = s.sp + 1 := rfl
@[simp] theorem push_dt (n : Nat) (s : State) : (push n s).dt = s.dt := rfl
@[simp] theorem push_st (n : Nat) (s : State) : (push n s).st = s.st := rfl
@[simp] theorem push_mem (n : Nat) (s : State) : (push n s).mem = s.mem := rfl
@[simp] theorem push_fb (n : Nat) (s : State) : (push n s).fb = s.fb := rfl
@[simp] theorem push_key (n : Nat) (s : State) : (push n s).key = s.key := rfl
@[simp] theorem push_halted (n : Nat) (s : State) : (push n s).halted = s.halted := rfl
@[simp] theorem push_fault (n : Nat) (s : State) : (push n s).fault = s.fault := rfl
@[simp] theorem push_diag (n : Nat) (s : State) : (push n s).diag = s.diag := rfl
@[simp] theorem push_fpc (n : Nat) (s : State) : (push n s).fpc = s.fpc := rfl
@[simp] theorem push_slot (n : Nat) (s : State) : (push n s).slot = s.slot := rfl
@[simp] theorem push_host (n : Nat) (s : State) : (push n s).host = s.host := rfl
@[simp] theorem push_draws (n : Nat) (s : State) : (push n s).draws = s.draws := rfl
@[simp] theorem push_failedInits (n : Nat) (s : State) : (push n s).failedInits = s.failedInits := rfl
@[simp] theorem push_params (n : Nat) (s : State) : (push n s).params = s.params := rfl

/-! ### popPc -/

@[simp] theorem popPc_v (s : State) : (popPc s).v = s.v := rfl
@[simp] theorem popPc_index (s : State) : (popPc s).index = s.index := rfl
@[simp] theorem popPc_pc (s : State) : (popPc s).pc = stackSlot s (s.sp - 1) % 2 ^ s.params.pcWidth := rfl
@[simp] theorem popPc_stack (s : State) : (popPc s).stack = s.stack := rfl
@[simp] theorem popPc_sp (s : State) : (popPc s).sp = s.sp - 1 := rfl
@[simp] theorem popPc_dt (s : State) : (popPc s).dt = s.dt := rfl
@[simp] theorem popPc_st (s : State) : (popPc s).st = s.st := rfl
@[simp] theorem popPc_mem (s : State) : (popPc s).mem = s.mem := rfl
@[simp] theorem popPc_fb (s : State) : (popPc s).fb = s.fb := rfl
@[simp] theorem popPc_key (s : State) : (popPc s).key = s.key := rfl
@[simp] theorem popPc_halted (s : State) : (popPc s).halted = s.halted := rfl
@[simp] theorem popPc_fault (s : State) : (popPc s).fault = s.fault := rfl
@[simp] theorem popPc_diag (s : State) : (popPc s).diag = s.diag := rfl
@[simp] theorem popPc_fpc (s : State) : (popPc s).fpc = s.fpc := rfl
@[simp] theorem popPc_slot (s : State) : (popPc s).slot = s.slot := rfl
@[simp] theorem popPc_host (s : State) : (popPc s).host = s.host := rfl
@[simp] theorem popPc_draws (s : State) : (popPc s).draws = s.draws := rfl
@[simp] theorem popPc_failedInits (s : State) : (popPc s).failedInits = s.failedInits := rfl
@[simp] theorem popPc_params (s : State) : (popPc s).params = s.params := rfl

/-! ### takeDraw -/

@[simp] theorem takeDraw_v (s : State) : (takeDraw s).v = s.v := rfl
@[simp] theorem takeDraw_index (s : State) : (takeDraw s).index = s.index := rfl
@[simp] theorem takeDraw_pc (s : State) : (takeDraw s).pc = s.pc := rfl
@[simp] theorem takeDraw_stack (s : State) : (takeDraw s).stack = s.stack := rfl
@[simp] theorem takeDraw_sp (s : State) : (takeDraw s).sp = s.sp := rfl
@[simp] theorem takeDraw_dt (s : State) : (takeDraw s).dt = s.dt := rfl
@[simp] theorem takeDraw_st (s : State) : (takeDraw s).st = s.st := rfl
@[simp] theorem takeDraw_mem (s : State) : (takeDraw s).mem = s.mem := rfl
@[simp] theorem takeDraw_fb (s : State) : (takeDraw s).fb = s.fb := rfl
@[simp] theorem takeDraw_key (s : State) : (takeDraw s).key = s.key := rfl
@[simp] theorem takeDraw_halted (s : State) : (takeDraw s).halted = s.halted := rfl
@[simp] theorem takeDraw_fault (s : State) : (takeDraw s).fault = s.fault := rfl
@[simp] theorem takeDraw_diag (s : State) : (takeDraw s).diag = s.diag := rfl
@[simp] theorem takeDraw_fpc (s : State) : (takeDraw s).fpc = s.fpc := rfl
@[simp] theorem takeDraw_slot (s : State) : (takeDraw s).slot = s.slot := rfl
@[simp] theorem takeDraw_host (s : State) : (takeDraw s).host = s.host := rfl
@[simp] theorem takeDraw_draws (s : State) : (takeDraw s).draws = s.draws + 1 := rfl
@[simp] theorem takeDraw_failedInits (s : State) : (takeDraw s).failedInits = s.failedInits := rfl
@[simp] theorem takeDraw_params (s : State) : (takeDraw s).params = s.params := rfl

/-! ### report -/

@[simp] theorem report_v (c : Condition) (w : Word) (i : Option Nat) (s : State) : (report c w i s).v = s.v := rfl
@[simp] theorem report_index (c : Condition) (w : Word) (i : Option Nat) (s : State) : (report c w i s).index = s.index := rfl
@[simp] theorem report_pc (c : Condition) (w : Word) (i : Option Nat) (s : State) : (report c w i s).pc = s.pc := rfl
@[simp] theorem report_stack (c : Condition) (w : Word) (i : Option Nat) (s : State) : (report c w i s).stack = s.stack := rfl
@[simp] theorem report_sp (c : Condition) (w : Word) (i : Option Nat) (s : State) : (report c w i s).sp = s.sp := rfl
@[simp] theorem report_dt (c : Condition) (w : Word) (i : Option Nat) (s : State) : (report c w i s).dt = s.dt := rfl
@[simp] theorem report_st (c : Condition) (w : Word) (i : Option Nat) (s : State) : (report c w i s).st = s.st := rfl
@[simp] theorem report_mem (c : Condition) (w : Word) (i : Option Nat) (s : State) : (report c w i s).mem = s.mem := rfl
@[simp] theorem report_fb (c : Condition) (w : Word) (i : Option Nat) (s : State) : (report c w i s).fb = s.fb := rfl
@[simp] theorem report_key (c : Condition) (w : Word) (i : Option Nat) (s : State) : (report c w i s).key = s.key := rfl
@[simp] theorem report_halted (c : Condition) (w : Word) (i : Option Nat) (s : State) : (report c w i s).halted = s.halted := rfl
@[simp] theorem report_fault (c : Condition) (w : Word) (i : Option Nat) (s : State) : (report c w i s).fault = s.fault := rfl
@[simp] theorem report_diag (c : Condition) (w : Word) (i : Option Nat) (s : State) : (report c w i s).diag = s.diag ++ [{ code := c, fpc := s.fpc, w := w, info := i }] := rfl
@[simp] theorem report_fpc (c : Condition) (w : Word) (i : Option Nat) (s : State) : (report c w i s).fpc = s.fpc := rfl
@[simp] theorem report_slot (c : Condition) (w : Word) (i : Option Nat) (s : State) : (report c w i s).slot = s.slot := rfl
@[simp] theorem report_host (c : Condition) (w : Word) (i : Option Nat) (s : State) : (report c w i s).host = s.host := rfl
@[simp] theorem report_draws (c : Condition) (w : Word) (i : Option Nat) (s : State) : (report c w i s).draws = s.draws := rfl
@[simp] theorem report_failedInits (c : Condition) (w : Word) (i : Option Nat) (s : State) : (report c w i s).failedInits = s.failedInits := rfl
@[simp] theorem report_params (c : Condition) (w : Word) (i : Option Nat) (s : State) : (report c w i s).params = s.params := rfl

/-! ### raiseFault -/

@[simp] theorem raiseFault_v (w : Option Word) (a : Nat) (s : State) : (raiseFault w a s).v = s.v := rfl
@[simp] theorem raiseFault_index (w : Option Word) (a : Nat) (s : State) : (raiseFault w a s).index = s.index := rfl
@[simp] theorem raiseFault_pc (w : Option Word) (a : Nat) (s : State) : (raiseFault w a s).pc = s.pc := rfl
@[simp] theorem raiseFault_stack (w : Option Word) (a : Nat) (s : State) : (raiseFault w a s).stack = s.stack := rfl
@[simp] theorem raiseFault_sp (w : Option Word) (a : Nat) (s : State) : (raiseFault w a s).sp = s.sp := rfl
@[simp] theorem raiseFault_dt (w : Option Word) (a : Nat) (s : State) : (raiseFault w a s).dt = s.dt := rfl
@[simp] theorem raiseFault_st (w : Option Word) (a : Nat) (s : State) : (raiseFault w a s).st = s.st := rfl
@[simp] theorem raiseFault_mem (w : Option Word) (a : Nat) (s : State) : (raiseFault w a s).mem = s.mem := rfl
@[simp] theorem raiseFault_fb (w : Option Word) (a : Nat) (s : State) : (raiseFault w a s).fb = s.fb := rfl
@[simp] theorem raiseFault_key (w : Option Word) (a : Nat) (s : State) : (raiseFault w a s).key = s.key := rfl
@[simp] theorem raiseFault_halted (w : Option Word) (a : Nat) (s : State) : (raiseFault w a s).halted = true := rfl
@[simp] theorem raiseFault_diag (w : Option Word) (a : Nat) (s : State) : (raiseFault w a s).diag = s.diag := rfl
@[simp] theorem raiseFault_fpc (w : Option Word) (a : Nat) (s : State) : (raiseFault w a s).fpc = s.fpc := rfl
@[simp] theorem raiseFault_slot (w : Option Word) (a : Nat) (s : State) : (raiseFault w a s).slot = s.slot := rfl
@[simp] theorem raiseFault_host (w : Option Word) (a : Nat) (s : State) : (raiseFault w a s).host = s.host := rfl
@[simp] theorem raiseFault_draws (w : Option Word) (a : Nat) (s : State) : (raiseFault w a s).draws = s.draws := rfl
@[simp] theorem raiseFault_failedInits (w : Option Word) (a : Nat) (s : State) : (raiseFault w a s).failedInits = s.failedInits := rfl
@[simp] theorem raiseFault_params (w : Option Word) (a : Nat) (s : State) : (raiseFault w a s).params = s.params := rfl

/-! ### tickTimers -/

@[simp] theorem tickTimers_v (s : State) : (tickTimers s).v = s.v := rfl
@[simp] theorem tickTimers_index (s : State) : (tickTimers s).index = s.index := rfl
@[simp] theorem tickTimers_pc (s : State) : (tickTimers s).pc = s.pc := rfl
@[simp] theorem tickTimers_stack (s : State) : (tickTimers s).stack = s.stack := rfl
@[simp] theorem tickTimers_sp (s : State) : (tickTimers s).sp = s.sp := rfl
@[simp] theorem tickTimers_dt (s : State) : (tickTimers s).dt = tick s.dt := rfl
@[simp] theorem tickTimers_st (s : State) : (tickTimers s).st = tick s.st := rfl
@[simp] theorem tickTimers_mem (s : State) : (tickTimers s).mem = s.mem := rfl
@[simp] theorem tickTimers_fb (s : State) : (tickTimers s).fb = s.fb := rfl
@[simp] theorem tickTimers_key (s : State) : (tickTimers s).key = s.key := rfl
@[simp] theorem tickTimers_halted (s : State) : (tickTimers s).halted = s.halted := rfl
@[simp] theorem tickTimers_fault (s : State) : (tickTimers s).fault = s.fault := rfl
@[simp] theorem tickTimers_diag (s : State) : (tickTimers s).diag = s.diag := rfl
@[simp] theorem tickTimers_fpc (s : State) : (tickTimers s).fpc = s.fpc := rfl
@[simp] theorem tickTimers_slot (s : State) : (tickTimers s).slot = s.slot := rfl
@[simp] theorem tickTimers_host (s : State) : (tickTimers s).host = s.host := rfl
@[simp] theorem tickTimers_draws (s : State) : (tickTimers s).draws = s.draws := rfl
@[simp] theorem tickTimers_failedInits (s : State) : (tickTimers s).failedInits = s.failedInits := rfl
@[simp] theorem tickTimers_params (s : State) : (tickTimers s).params = s.params := rfl

/-! ### latchFpc -/

@[simp] theorem latchFpc_v (s : State) : (latchFpc s).v = s.v := rfl
@[simp] theorem latchFpc_index (s : State) : (latchFpc s).index = s.index := rfl
@[simp] theorem latchFpc_pc (s : State) : (latchFpc s).pc = s.pc := rfl
@[simp] theorem latchFpc_stack (s : State) : (latchFpc s).stack = s.stack := rfl
@[simp] theorem latchFpc_sp (s : State) : (latchFpc s).sp = s.sp := rfl
@[simp] theorem latchFpc_dt (s : State) : (latchFpc s).dt = s.dt := rfl
@[simp] theorem latchFpc_st (s : State) : (latchFpc s).st = s.st := rfl
@[simp] theorem latchFpc_mem (s : State) : (latchFpc s).mem = s.mem := rfl
@[simp] theorem latchFpc_fb (s : State) : (latchFpc s).fb = s.fb := rfl
@[simp] theorem latchFpc_key (s : State) : (latchFpc s).key = s.key := rfl
@[simp] theorem latchFpc_halted (s : State) : (latchFpc s).halted = s.halted := rfl
@[simp] theorem latchFpc_fault (s : State) : (latchFpc s).fault = s.fault := rfl
@[simp] theorem latchFpc_diag (s : State) : (latchFpc s).diag = s.diag := rfl
@[simp] theorem latchFpc_fpc (s : State) : (latchFpc s).fpc = s.pc := rfl
@[simp] theorem latchFpc_slot (s : State) : (latchFpc s).slot = s.slot := rfl
@[simp] theorem latchFpc_host (s : State) : (latchFpc s).host = s.host := rfl
@[simp] theorem latchFpc_draws (s : State) : (latchFpc s).draws = s.draws := rfl
@[simp] theorem latchFpc_failedInits (s : State) : (latchFpc s).failedInits = s.failedInits := rfl
@[simp] theorem latchFpc_params (s : State) : (latchFpc s).params = s.params := rfl

/-! ### hostWriteKeys -/

@[simp] theorem hostWriteKeys_v (k : Keys) (s : State) : (hostWriteKeys k s).v = s.v := rfl
@[simp] theorem hostWriteKeys_index (k : Keys) (s : State) : (hostWriteKeys k s).index = s.index := rfl
@[simp] theorem hostWriteKeys_pc (k : Keys) (s : State) : (hostWriteKeys k s).pc = s.pc := rfl
@[simp] theorem hostWriteKeys_stack (k : Keys) (s : State) : (hostWriteKeys k s).stack = s.stack := rfl
@[simp] theorem hostWriteKeys_sp (k : Keys) (s : State) : (hostWriteKeys k s).sp = s.sp := rfl
@[simp] theorem hostWriteKeys_dt (k : Keys) (s : State) : (hostWriteKeys k s).dt = s.dt := rfl
@[simp] theorem hostWriteKeys_st (k : Keys) (s : State) : (hostWriteKeys k s).st = s.st := rfl
@[simp] theorem hostWriteKeys_mem (k : Keys) (s : State) : (hostWriteKeys k s).mem = s.mem := rfl
@[simp] theorem hostWriteKeys_fb (k : Keys) (s : State) : (hostWriteKeys k s).fb = s.fb := rfl
@[simp] theorem hostWriteKeys_key (k : Keys) (s : State) : (hostWriteKeys k s).key = fitKeys s.params.numKeys k := rfl
@[simp] theorem hostWriteKeys_halted (k : Keys) (s : State) : (hostWriteKeys k s).halted = s.halted := rfl
@[simp] theorem hostWriteKeys_fault (k : Keys) (s : State) : (hostWriteKeys k s).fault = s.fault := rfl
@[simp] theorem hostWriteKeys_diag (k : Keys) (s : State) : (hostWriteKeys k s).diag = s.diag := rfl
@[simp] theorem hostWriteKeys_fpc (k : Keys) (s : State) : (hostWriteKeys k s).fpc = s.fpc := rfl
@[simp] theorem hostWriteKeys_slot (k : Keys) (s : State) : (hostWriteKeys k s).slot = s.slot := rfl
@[simp] theorem hostWriteKeys_host (k : Keys) (s : State) : (hostWriteKeys k s).host = s.host := rfl
@[simp] theorem hostWriteKeys_draws (k : Keys) (s : State) : (hostWriteKeys k s).draws = s.draws := rfl
@[simp] theorem hostWriteKeys_failedInits (k : Keys) (s : State) : (hostWriteKeys k s).failedInits = s.failedInits := rfl
@[simp] theorem hostWriteKeys_params (k : Keys) (s : State) : (hostWriteKeys k s).params = s.params := rfl

@[simp] theorem raiseFault_fault_none (w : Option Word) (a : Nat) (s : State) (h : s.fault = none) :
    (raiseFault w a s).fault = some { kind := .memoryOutOfRange, fpc := s.fpc, w := w, addr := a } := by
  simp [raiseFault, h]

/-- A fault record is written once (10_state.md R39). -/
@[simp] theorem raiseFault_fault_some (w : Option Word) (a : Nat) (s : State) (r : FaultRecord) (h : s.fault = some r) :
    (raiseFault w a s).fault = some r := by
  simp [raiseFault, h]

/-- A register write leaves every other register; a file with the register takes the value, mod 2 to its width. -/
theorem readReg_writeReg (x y : Reg) (n : Nat) (s : State) :
    readReg (writeReg x n s) y = if y = x ∧ x.val < s.v.length then n % 2 ^ s.params.vWidth else readReg s y := by
  unfold readReg writeReg
  simp only [List.getD_eq_getElem?_getD, List.getElem?_set]
  by_cases h : y = x
  · subst h
    by_cases hl : y.val < s.v.length
    · simp [hl]
    · simp [hl]
  · rw [if_neg fun e => h (Fin.ext e.symm), if_neg fun e => h e.1]

/-- `readReg_writeReg` where the file has every register a 4-bit field names. -/
theorem readReg_writeReg_of_length (x y : Reg) (n : Nat) {s : State} (h : s.v.length = s.params.numV) :
    readReg (writeReg x n s) y = if y = x then n % 2 ^ s.params.vWidth else readReg s y := by
  have hl : x.val < s.v.length := by have := s.params.numV_ge; omega
  rw [readReg_writeReg]
  simp only [hl, and_true]

/-- Every register a 4-bit field names is below 2 to the width, when all registers of the file are. -/
theorem readReg_lt {s : State} (h : ∀ n ∈ s.v, n < 2 ^ s.params.vWidth) (x : Reg) : readReg s x < 2 ^ s.params.vWidth := by
  unfold readReg
  rw [List.getD_eq_getElem?_getD]
  rcases Nat.lt_or_ge x.val s.v.length with hl | hl
  · rw [List.getElem?_eq_getElem hl]; exact h _ (List.getElem_mem hl)
  · rw [List.getElem?_eq_none hl]; exact Nat.two_pow_pos _

/-- Every slot is below 2 to the width, when all slots of the stack are. -/
theorem stackSlot_lt {s : State} (h : ∀ n ∈ s.stack, n < 2 ^ s.params.stackEntryWidth) (k : Nat) :
    stackSlot s k < 2 ^ s.params.stackEntryWidth := by
  unfold stackSlot
  rw [List.getD_eq_getElem?_getD]
  rcases Nat.lt_or_ge k s.stack.length with hl | hl
  · rw [List.getElem?_eq_getElem hl]; exact h _ (List.getElem_mem hl)
  · rw [List.getElem?_eq_none hl]; exact Nat.two_pow_pos _

end Sys2Proof.Machine
end

