-- ==== Sys2Proof/Laws/Ops.lean ====
section
/-! SUPPORT. One lemma for each shared operation that says once everything it can do, and its frame, field by field. -/

namespace Sys2Proof.Machine

/-- A skip changes pc or nothing. -/
theorem skipIf_eq (c : Bool) (s : State) : skipIf c s = { s with pc := if c then (s.pc + 2) % 2 ^ s.params.pcWidth else s.pc } := by
  unfold skipIf; cases c <;> rfl

/-- Stores change memory alone. -/
theorem storeBytes_eq (a : Nat) (bs : List Byte) (s : State) :
    storeBytes a bs s = { s with mem := (storeBytes a bs s).mem } := by
  induction bs generalizing a s with
  | nil => rfl
  | cons b bs ih => rw [storeBytes, ih]; rfl

/-- Block register writes change the registers alone. -/
theorem writeRegsFrom_eq (k : Nat) (bs : List Byte) (s : State) :
    writeRegsFrom k bs s = { s with v := (writeRegsFrom k bs s).v } := by
  induction bs generalizing k s with
  | nil => rfl
  | cons b bs ih => rw [writeRegsFrom, ih]

/-- A flag-setting row changes the registers alone. -/
theorem flagThenResult_eq (x : Reg) (f r : State → Nat) (s : State) :
    flagThenResult x f r s = { s with v := (flagThenResult x f r s).v } := by
  unfold flagThenResult; split <;> rfl

/-- What the pc advance does (40_cycle.md R84): 2 more, or a report and no advance. -/
theorem advancePc_cases (w : Word) (s : State) :
    (s.fpc < s.params.pcTop ∧ advancePc w s = writePc (s.fpc + 2) s) ∨
    (s.params.pcTop ≤ s.fpc ∧ advancePc w s = report .pcSaturation w none s) := by
  unfold advancePc
  split <;> rename_i h
  · exact .inr ⟨h, rfl⟩
  · exact .inl ⟨by omega, rfl⟩

theorem advancePc_eq (w : Word) (s : State) :
    advancePc w s = { s with pc := (advancePc w s).pc, diag := (advancePc w s).diag } := by
  rcases advancePc_cases w s with ⟨-, h⟩ | ⟨-, h⟩ <;> rw [h] <;> rfl

/-- What a block access does: its body, or the fault with none of it (20_memory.md R62). -/
theorem checkRange_cases (base len : Nat) (w : Word) (body : State → State) (s : State) :
    (firstOutside s base len = none ∧ checkRange base len w body s = body s) ∨
    ∃ a, firstOutside s base len = some a ∧ checkRange base len w body s = raiseFault (some w) a s := by
  unfold checkRange
  split <;> rename_i h
  · exact .inr ⟨_, h, rfl⟩
  · exact .inl ⟨h, rfl⟩

/-- What the end of a cycle does: the frame step ends on a fault, goes on, or ends with the tick (40_cycle.md R80, R89). -/
theorem endSlot_cases (s : State) :
    (s.halted = true ∧ endSlot s = { s with slot := 0 }) ∨
    (s.halted = false ∧ s.slot + 1 < s.params.cyclesPerFrame ∧ endSlot s = { s with slot := s.slot + 1 }) ∨
    (s.halted = false ∧ s.params.cyclesPerFrame ≤ s.slot + 1 ∧ endSlot s = { tickTimers s with slot := 0 }) := by
  unfold endSlot
  split_ifs with h1 h2
  · exact .inl ⟨h1, rfl⟩
  · exact .inr (.inl ⟨by simpa using h1, h2, rfl⟩)
  · exact .inr (.inr ⟨by simpa using h1, by omega, rfl⟩)

/-! ### skipIf: the frame -/

@[simp] theorem skipIf_v (c : Bool) (s : State) : (skipIf c s).v = s.v := by rw [skipIf_eq]
@[simp] theorem skipIf_index (c : Bool) (s : State) : (skipIf c s).index = s.index := by rw [skipIf_eq]
@[simp] theorem skipIf_stack (c : Bool) (s : State) : (skipIf c s).stack = s.stack := by rw [skipIf_eq]
@[simp] theorem skipIf_sp (c : Bool) (s : State) : (skipIf c s).sp = s.sp := by rw [skipIf_eq]
@[simp] theorem skipIf_dt (c : Bool) (s : State) : (skipIf c s).dt = s.dt := by rw [skipIf_eq]
@[simp] theorem skipIf_st (c : Bool) (s : State) : (skipIf c s).st = s.st := by rw [skipIf_eq]
@[simp] theorem skipIf_mem (c : Bool) (s : State) : (skipIf c s).mem = s.mem := by rw [skipIf_eq]
@[simp] theorem skipIf_fb (c : Bool) (s : State) : (skipIf c s).fb = s.fb := by rw [skipIf_eq]
@[simp] theorem skipIf_key (c : Bool) (s : State) : (skipIf c s).key = s.key := by rw [skipIf_eq]
@[simp] theorem skipIf_halted (c : Bool) (s : State) : (skipIf c s).halted = s.halted := by rw [skipIf_eq]
@[simp] theorem skipIf_fault (c : Bool) (s : State) : (skipIf c s).fault = s.fault := by rw [skipIf_eq]
@[simp] theorem skipIf_diag (c : Bool) (s : State) : (skipIf c s).diag = s.diag := by rw [skipIf_eq]
@[simp] theorem skipIf_fpc (c : Bool) (s : State) : (skipIf c s).fpc = s.fpc := by rw [skipIf_eq]
@[simp] theorem skipIf_slot (c : Bool) (s : State) : (skipIf c s).slot = s.slot := by rw [skipIf_eq]
@[simp] theorem skipIf_host (c : Bool) (s : State) : (skipIf c s).host = s.host := by rw [skipIf_eq]
@[simp] theorem skipIf_draws (c : Bool) (s : State) : (skipIf c s).draws = s.draws := by rw [skipIf_eq]
@[simp] theorem skipIf_failedInits (c : Bool) (s : State) : (skipIf c s).failedInits = s.failedInits := by rw [skipIf_eq]
@[simp] theorem skipIf_params (c : Bool) (s : State) : (skipIf c s).params = s.params := by rw [skipIf_eq]

/-! ### storeBytes: the frame -/

@[simp] theorem storeBytes_v (a : Nat) (bs : List Byte) (s : State) : (storeBytes a bs s).v = s.v := by rw [storeBytes_eq]
@[simp] theorem storeBytes_index (a : Nat) (bs : List Byte) (s : State) : (storeBytes a bs s).index = s.index := by rw [storeBytes_eq]
@[simp] theorem storeBytes_pc (a : Nat) (bs : List Byte) (s : State) : (storeBytes a bs s).pc = s.pc := by rw [storeBytes_eq]
@[simp] theorem storeBytes_stack (a : Nat) (bs : List Byte) (s : State) : (storeBytes a bs s).stack = s.stack := by rw [storeBytes_eq]
@[simp] theorem storeBytes_sp (a : Nat) (bs : List Byte) (s : State) : (storeBytes a bs s).sp = s.sp := by rw [storeBytes_eq]
@[simp] theorem storeBytes_dt (a : Nat) (bs : List Byte) (s : State) : (storeBytes a bs s).dt = s.dt := by rw [storeBytes_eq]
@[simp] theorem storeBytes_st (a : Nat) (bs : List Byte) (s : State) : (storeBytes a bs s).st = s.st := by rw [storeBytes_eq]
@[simp] theorem storeBytes_fb (a : Nat) (bs : List Byte) (s : State) : (storeBytes a bs s).fb = s.fb := by rw [storeBytes_eq]
@[simp] theorem storeBytes_key (a : Nat) (bs : List Byte) (s : State) : (storeBytes a bs s).key = s.key := by rw [storeBytes_eq]
@[simp] theorem storeBytes_halted (a : Nat) (bs : List Byte) (s : State) : (storeBytes a bs s).halted = s.halted := by rw [storeBytes_eq]
@[simp] theorem storeBytes_fault (a : Nat) (bs : List Byte) (s : State) : (storeBytes a bs s).fault = s.fault := by rw [storeBytes_eq]
@[simp] theorem storeBytes_diag (a : Nat) (bs : List Byte) (s : State) : (storeBytes a bs s).diag = s.diag := by rw [storeBytes_eq]
@[simp] theorem storeBytes_fpc (a : Nat) (bs : List Byte) (s : State) : (storeBytes a bs s).fpc = s.fpc := by rw [storeBytes_eq]
@[simp] theorem storeBytes_slot (a : Nat) (bs : List Byte) (s : State) : (storeBytes a bs s).slot = s.slot := by rw [storeBytes_eq]
@[simp] theorem storeBytes_host (a : Nat) (bs : List Byte) (s : State) : (storeBytes a bs s).host = s.host := by rw [storeBytes_eq]
@[simp] theorem storeBytes_draws (a : Nat) (bs : List Byte) (s : State) : (storeBytes a bs s).draws = s.draws := by rw [storeBytes_eq]
@[simp] theorem storeBytes_failedInits (a : Nat) (bs : List Byte) (s : State) : (storeBytes a bs s).failedInits = s.failedInits := by rw [storeBytes_eq]
@[simp] theorem storeBytes_params (a : Nat) (bs : List Byte) (s : State) : (storeBytes a bs s).params = s.params := by rw [storeBytes_eq]

/-! ### writeRegsFrom: the frame -/

@[simp] theorem writeRegsFrom_index (k : Nat) (bs : List Byte) (s : State) : (writeRegsFrom k bs s).index = s.index := by rw [writeRegsFrom_eq]
@[simp] theorem writeRegsFrom_pc (k : Nat) (bs : List Byte) (s : State) : (writeRegsFrom k bs s).pc = s.pc := by rw [writeRegsFrom_eq]
@[simp] theorem writeRegsFrom_stack (k : Nat) (bs : List Byte) (s : State) : (writeRegsFrom k bs s).stack = s.stack := by rw [writeRegsFrom_eq]
@[simp] theorem writeRegsFrom_sp (k : Nat) (bs : List Byte) (s : State) : (writeRegsFrom k bs s).sp = s.sp := by rw [writeRegsFrom_eq]
@[simp] theorem writeRegsFrom_dt (k : Nat) (bs : List Byte) (s : State) : (writeRegsFrom k bs s).dt = s.dt := by rw [writeRegsFrom_eq]
@[simp] theorem writeRegsFrom_st (k : Nat) (bs : List Byte) (s : State) : (writeRegsFrom k bs s).st = s.st := by rw [writeRegsFrom_eq]
@[simp] theorem writeRegsFrom_mem (k : Nat) (bs : List Byte) (s : State) : (writeRegsFrom k bs s).mem = s.mem := by rw [writeRegsFrom_eq]
@[simp] theorem writeRegsFrom_fb (k : Nat) (bs : List Byte) (s : State) : (writeRegsFrom k bs s).fb = s.fb := by rw [writeRegsFrom_eq]
@[simp] theorem writeRegsFrom_key (k : Nat) (bs : List Byte) (s : State) : (writeRegsFrom k bs s).key = s.key := by rw [writeRegsFrom_eq]
@[simp] theorem writeRegsFrom_halted (k : Nat) (bs : List Byte) (s : State) : (writeRegsFrom k bs s).halted = s.halted := by rw [writeRegsFrom_eq]
@[simp] theorem writeRegsFrom_fault (k : Nat) (bs : List Byte) (s : State) : (writeRegsFrom k bs s).fault = s.fault := by rw [writeRegsFrom_eq]
@[simp] theorem writeRegsFrom_diag (k : Nat) (bs : List Byte) (s : State) : (writeRegsFrom k bs s).diag = s.diag := by rw [writeRegsFrom_eq]
@[simp] theorem writeRegsFrom_fpc (k : Nat) (bs : List Byte) (s : State) : (writeRegsFrom k bs s).fpc = s.fpc := by rw [writeRegsFrom_eq]
@[simp] theorem writeRegsFrom_slot (k : Nat) (bs : List Byte) (s : State) : (writeRegsFrom k bs s).slot = s.slot := by rw [writeRegsFrom_eq]
@[simp] theorem writeRegsFrom_host (k : Nat) (bs : List Byte) (s : State) : (writeRegsFrom k bs s).host = s.host := by rw [writeRegsFrom_eq]
@[simp] theorem writeRegsFrom_draws (k : Nat) (bs : List Byte) (s : State) : (writeRegsFrom k bs s).draws = s.draws := by rw [writeRegsFrom_eq]
@[simp] theorem writeRegsFrom_failedInits (k : Nat) (bs : List Byte) (s : State) : (writeRegsFrom k bs s).failedInits = s.failedInits := by rw [writeRegsFrom_eq]
@[simp] theorem writeRegsFrom_params (k : Nat) (bs : List Byte) (s : State) : (writeRegsFrom k bs s).params = s.params := by rw [writeRegsFrom_eq]

/-! ### flagThenResult: the frame -/

@[simp] theorem flagThenResult_index (x : Reg) (f r : State → Nat) (s : State) : (flagThenResult x f r s).index = s.index := by rw [flagThenResult_eq]
@[simp] theorem flagThenResult_pc (x : Reg) (f r : State → Nat) (s : State) : (flagThenResult x f r s).pc = s.pc := by rw [flagThenResult_eq]
@[simp] theorem flagThenResult_stack (x : Reg) (f r : State → Nat) (s : State) : (flagThenResult x f r s).stack = s.stack := by rw [flagThenResult_eq]
@[simp] theorem flagThenResult_sp (x : Reg) (f r : State → Nat) (s : State) : (flagThenResult x f r s).sp = s.sp := by rw [flagThenResult_eq]
@[simp] theorem flagThenResult_dt (x : Reg) (f r : State → Nat) (s : State) : (flagThenResult x f r s).dt = s.dt := by rw [flagThenResult_eq]
@[simp] theorem flagThenResult_st (x : Reg) (f r : State → Nat) (s : State) : (flagThenResult x f r s).st = s.st := by rw [flagThenResult_eq]
@[simp] theorem flagThenResult_mem (x : Reg) (f r : State → Nat) (s : State) : (flagThenResult x f r s).mem = s.mem := by rw [flagThenResult_eq]
@[simp] theorem flagThenResult_fb (x : Reg) (f r : State → Nat) (s : State) : (flagThenResult x f r s).fb = s.fb := by rw [flagThenResult_eq]
@[simp] theorem flagThenResult_key (x : Reg) (f r : State → Nat) (s : State) : (flagThenResult x f r s).key = s.key := by rw [flagThenResult_eq]
@[simp] theorem flagThenResult_halted (x : Reg) (f r : State → Nat) (s : State) : (flagThenResult x f r s).halted = s.halted := by rw [flagThenResult_eq]
@[simp] theorem flagThenResult_fault (x : Reg) (f r : State → Nat) (s : State) : (flagThenResult x f r s).fault = s.fault := by rw [flagThenResult_eq]
@[simp] theorem flagThenResult_diag (x : Reg) (f r : State → Nat) (s : State) : (flagThenResult x f r s).diag = s.diag := by rw [flagThenResult_eq]
@[simp] theorem flagThenResult_fpc (x : Reg) (f r : State → Nat) (s : State) : (flagThenResult x f r s).fpc = s.fpc := by rw [flagThenResult_eq]
@[simp] theorem flagThenResult_slot (x : Reg) (f r : State → Nat) (s : State) : (flagThenResult x f r s).slot = s.slot := by rw [flagThenResult_eq]
@[simp] theorem flagThenResult_host (x : Reg) (f r : State → Nat) (s : State) : (flagThenResult x f r s).host = s.host := by rw [flagThenResult_eq]
@[simp] theorem flagThenResult_draws (x : Reg) (f r : State → Nat) (s : State) : (flagThenResult x f r s).draws = s.draws := by rw [flagThenResult_eq]
@[simp] theorem flagThenResult_failedInits (x : Reg) (f r : State → Nat) (s : State) : (flagThenResult x f r s).failedInits = s.failedInits := by rw [flagThenResult_eq]
@[simp] theorem flagThenResult_params (x : Reg) (f r : State → Nat) (s : State) : (flagThenResult x f r s).params = s.params := by rw [flagThenResult_eq]

/-! ### advancePc: the frame -/

@[simp] theorem advancePc_v (w : Word) (s : State) : (advancePc w s).v = s.v := by rw [advancePc_eq]
@[simp] theorem advancePc_index (w : Word) (s : State) : (advancePc w s).index = s.index := by rw [advancePc_eq]
@[simp] theorem advancePc_stack (w : Word) (s : State) : (advancePc w s).stack = s.stack := by rw [advancePc_eq]
@[simp] theorem advancePc_sp (w : Word) (s : State) : (advancePc w s).sp = s.sp := by rw [advancePc_eq]
@[simp] theorem advancePc_dt (w : Word) (s : State) : (advancePc w s).dt = s.dt := by rw [advancePc_eq]
@[simp] theorem advancePc_st (w : Word) (s : State) : (advancePc w s).st = s.st := by rw [advancePc_eq]
@[simp] theorem advancePc_mem (w : Word) (s : State) : (advancePc w s).mem = s.mem := by rw [advancePc_eq]
@[simp] theorem advancePc_fb (w : Word) (s : State) : (advancePc w s).fb = s.fb := by rw [advancePc_eq]
@[simp] theorem advancePc_key (w : Word) (s : State) : (advancePc w s).key = s.key := by rw [advancePc_eq]
@[simp] theorem advancePc_halted (w : Word) (s : State) : (advancePc w s).halted = s.halted := by rw [advancePc_eq]
@[simp] theorem advancePc_fault (w : Word) (s : State) : (advancePc w s).fault = s.fault := by rw [advancePc_eq]
@[simp] theorem advancePc_fpc (w : Word) (s : State) : (advancePc w s).fpc = s.fpc := by rw [advancePc_eq]
@[simp] theorem advancePc_slot (w : Word) (s : State) : (advancePc w s).slot = s.slot := by rw [advancePc_eq]
@[simp] theorem advancePc_host (w : Word) (s : State) : (advancePc w s).host = s.host := by rw [advancePc_eq]
@[simp] theorem advancePc_draws (w : Word) (s : State) : (advancePc w s).draws = s.draws := by rw [advancePc_eq]
@[simp] theorem advancePc_failedInits (w : Word) (s : State) : (advancePc w s).failedInits = s.failedInits := by rw [advancePc_eq]
@[simp] theorem advancePc_params (w : Word) (s : State) : (advancePc w s).params = s.params := by rw [advancePc_eq]

/-! ### Commuting with a change of state that the operation neither reads nor writes -/

theorem skipIf_comm (f : State → State) (hf : ∀ u, writePc ((f u).pc + 2) (f u) = f (writePc (u.pc + 2) u)) (c : Bool) (s : State) :
    skipIf c (f s) = f (skipIf c s) := by
  cases c
  · rfl
  · exact hf s

theorem storeBytes_comm (f : State → State) (hf : ∀ a b u, storeByte a b (f u) = f (storeByte a b u)) (a : Nat) (bs : List Byte)
    (s : State) : storeBytes a bs (f s) = f (storeBytes a bs s) := by
  induction bs generalizing a s with
  | nil => rfl
  | cons b bs ih => rw [storeBytes, storeBytes, hf, ih]

theorem writeRegsFrom_comm (f : State → State)
    (hf : ∀ (k : Nat) (b : Byte) u, ({ f u with v := (f u).v.set k (b.toNat % 2 ^ (f u).params.vWidth) } : State) =
      f { u with v := u.v.set k (b.toNat % 2 ^ u.params.vWidth) })
    (k : Nat) (bs : List Byte) (s : State) : writeRegsFrom k bs (f s) = f (writeRegsFrom k bs s) := by
  induction bs generalizing k s with
  | nil => rfl
  | cons b bs ih => rw [writeRegsFrom, writeRegsFrom, hf, ih]

theorem flagThenResult_comm (f : State → State) (hp : ∀ u, (f u).params = u.params) (hw : ∀ x b u, writeReg x b (f u) = f (writeReg x b u))
    (x : Reg) (g r : State → Nat) (hg : ∀ u, g (f u) = g u) (hr : ∀ u, r (f u) = r u) (s : State) :
    flagThenResult x g r (f s) = f (flagThenResult x g r s) := by
  unfold flagThenResult
  rw [hp]
  split <;> simp only [hw, hg, hr]

/-- Stores inside memory keep its canonical form. -/
theorem storeBytes_mem_wf {a : Nat} {bs : List Byte} {s : State} (h : s.mem.wf s.params.memSize = true)
    (hr : ∀ k, k < bs.length → resolve s (a + k) < s.params.memSize) : (storeBytes a bs s).mem.wf s.params.memSize = true := by
  induction bs generalizing a s with
  | nil => exact h
  | cons b bs ih =>
    rw [storeBytes]
    refine ih (memSet_wf h b (hr 0 (by simp))) fun k hk => ?_
    have := hr (k + 1) (by simpa using hk)
    rwa [show a + (k + 1) = a + 1 + k by omega] at this

/-- Reading a byte after one store (20_memory.md R57). -/
theorem loadByte_storeByte {s : State} (h : s.mem.wf s.params.memSize = true) (a : Nat) (b : Byte) (c : Nat) :
    loadByte (storeByte a b s) c = if resolve s c = resolve s a then b else loadByte s c :=
  memGet_memSet h (resolve s a) b (resolve s c)

end Sys2Proof.Machine
end

