-- ==== Sys2Proof/Laws/PerInstr.lean ====
section
/-! SUPPORT. The family TableRow: the word of every instruction holds the fixed bits its row of spec/opcode_table.json gives. -/

namespace Sys2Proof.Laws.TableRow

/-- The row's fixed fields, (hi, lo, value), as spec/opcode_table.json lists them. -/
def fixedFields : Instr → List (Nat × Nat × Nat)
  | .cls => [(15, 0, 224)]
  | .ret => [(15, 0, 238)]
  | .jp _ => [(15, 12, 1)]
  | .call _ => [(15, 12, 2)]
  | .seImm _ _ => [(15, 12, 3)]
  | .sneImm _ _ => [(15, 12, 4)]
  | .seReg _ _ => [(3, 0, 0), (15, 12, 5)]
  | .ldImm _ _ => [(15, 12, 6)]
  | .addImm _ _ => [(15, 12, 7)]
  | .ldReg _ _ => [(3, 0, 0), (15, 12, 8)]
  | .orReg _ _ => [(3, 0, 1), (15, 12, 8)]
  | .andReg _ _ => [(3, 0, 2), (15, 12, 8)]
  | .xorReg _ _ => [(3, 0, 3), (15, 12, 8)]
  | .addReg _ _ => [(3, 0, 4), (15, 12, 8)]
  | .sub _ _ => [(3, 0, 5), (15, 12, 8)]
  | .shr _ _ => [(3, 0, 6), (15, 12, 8)]
  | .subn _ _ => [(3, 0, 7), (15, 12, 8)]
  | .shl _ _ => [(3, 0, 14), (15, 12, 8)]
  | .sneReg _ _ => [(3, 0, 0), (15, 12, 9)]
  | .ldI _ => [(15, 12, 10)]
  | .jpV0 _ => [(15, 12, 11)]
  | .rnd _ _ => [(15, 12, 12)]
  | .drw _ _ _ => [(15, 12, 13)]
  | .skp _ => [(7, 0, 158), (15, 12, 14)]
  | .sknp _ => [(7, 0, 161), (15, 12, 14)]
  | .ldVxDT _ => [(7, 0, 7), (15, 12, 15)]
  | .ldVxK _ => [(7, 0, 10), (15, 12, 15)]
  | .ldDTVx _ => [(7, 0, 21), (15, 12, 15)]
  | .ldSTVx _ => [(7, 0, 24), (15, 12, 15)]
  | .addI _ => [(7, 0, 30), (15, 12, 15)]
  | .ldF _ => [(7, 0, 41), (15, 12, 15)]
  | .ldB _ => [(7, 0, 51), (15, 12, 15)]
  | .storeRegs _ => [(7, 0, 85), (15, 12, 15)]
  | .loadRegs _ => [(7, 0, 101), (15, 12, 15)]

/-- Every fixed field of the row holds its value in the word the encoder writes. -/
def Statement (i : Instr) : Prop := ∀ f ∈ fixedFields i, (encode i).toNat / 2 ^ f.2.1 % 2 ^ (f.1 + 1 - f.2.1) = f.2.2

theorem cls : Statement .cls := by
  intro f hf; simp only [fixedFields, List.mem_singleton] at hf; subst hf; rfl

theorem ret : Statement .ret := by
  intro f hf; simp only [fixedFields, List.mem_singleton] at hf; subst hf; rfl

theorem jp (nnn : BitVec 12) : Statement (.jp nnn) := by
  intro f hf
  simp only [fixedFields, List.mem_cons, List.not_mem_nil, or_false] at hf
  subst hf
  simp only [encode, formNNN_toNat, BitVec.ofNat_eq_ofNat, BitVec.toNat_ofNat]; omega

theorem call (nnn : BitVec 12) : Statement (.call nnn) := by
  intro f hf
  simp only [fixedFields, List.mem_cons, List.not_mem_nil, or_false] at hf
  subst hf
  simp only [encode, formNNN_toNat, BitVec.ofNat_eq_ofNat, BitVec.toNat_ofNat]; omega

theorem seImm (x : Reg) (nn : Byte) : Statement (.seImm x nn) := by
  intro f hf
  simp only [fixedFields, List.mem_cons, List.not_mem_nil, or_false] at hf
  subst hf
  simp only [encode, formXNN_toNat, BitVec.ofNat_eq_ofNat, BitVec.toNat_ofNat]; omega

theorem sneImm (x : Reg) (nn : Byte) : Statement (.sneImm x nn) := by
  intro f hf
  simp only [fixedFields, List.mem_cons, List.not_mem_nil, or_false] at hf
  subst hf
  simp only [encode, formXNN_toNat, BitVec.ofNat_eq_ofNat, BitVec.toNat_ofNat]; omega

theorem seReg (x : Reg) (y : Reg) : Statement (.seReg x y) := by
  intro f hf
  simp only [fixedFields, List.mem_cons, List.not_mem_nil, or_false] at hf
  rcases hf with rfl | rfl <;> (simp only [encode, formXYN_toNat, BitVec.ofNat_eq_ofNat, BitVec.toNat_ofNat]; omega)

theorem ldImm (x : Reg) (nn : Byte) : Statement (.ldImm x nn) := by
  intro f hf
  simp only [fixedFields, List.mem_cons, List.not_mem_nil, or_false] at hf
  subst hf
  simp only [encode, formXNN_toNat, BitVec.ofNat_eq_ofNat, BitVec.toNat_ofNat]; omega

theorem addImm (x : Reg) (nn : Byte) : Statement (.addImm x nn) := by
  intro f hf
  simp only [fixedFields, List.mem_cons, List.not_mem_nil, or_false] at hf
  subst hf
  simp only [encode, formXNN_toNat, BitVec.ofNat_eq_ofNat, BitVec.toNat_ofNat]; omega

theorem ldReg (x : Reg) (y : Reg) : Statement (.ldReg x y) := by
  intro f hf
  simp only [fixedFields, List.mem_cons, List.not_mem_nil, or_false] at hf
  rcases hf with rfl | rfl <;> (simp only [encode, formXYN_toNat, BitVec.ofNat_eq_ofNat, BitVec.toNat_ofNat]; omega)

theorem orReg (x : Reg) (y : Reg) : Statement (.orReg x y) := by
  intro f hf
  simp only [fixedFields, List.mem_cons, List.not_mem_nil, or_false] at hf
  rcases hf with rfl | rfl <;> (simp only [encode, formXYN_toNat, BitVec.ofNat_eq_ofNat, BitVec.toNat_ofNat]; omega)

theorem andReg (x : Reg) (y : Reg) : Statement (.andReg x y) := by
  intro f hf
  simp only [fixedFields, List.mem_cons, List.not_mem_nil, or_false] at hf
  rcases hf with rfl | rfl <;> (simp only [encode, formXYN_toNat, BitVec.ofNat_eq_ofNat, BitVec.toNat_ofNat]; omega)

theorem xorReg (x : Reg) (y : Reg) : Statement (.xorReg x y) := by
  intro f hf
  simp only [fixedFields, List.mem_cons, List.not_mem_nil, or_false] at hf
  rcases hf with rfl | rfl <;> (simp only [encode, formXYN_toNat, BitVec.ofNat_eq_ofNat, BitVec.toNat_ofNat]; omega)

theorem addReg (x : Reg) (y : Reg) : Statement (.addReg x y) := by
  intro f hf
  simp only [fixedFields, List.mem_cons, List.not_mem_nil, or_false] at hf
  rcases hf with rfl | rfl <;> (simp only [encode, formXYN_toNat, BitVec.ofNat_eq_ofNat, BitVec.toNat_ofNat]; omega)

theorem sub (x : Reg) (y : Reg) : Statement (.sub x y) := by
  intro f hf
  simp only [fixedFields, List.mem_cons, List.not_mem_nil, or_false] at hf
  rcases hf with rfl | rfl <;> (simp only [encode, formXYN_toNat, BitVec.ofNat_eq_ofNat, BitVec.toNat_ofNat]; omega)

theorem shr (x : Reg) (y : Reg) : Statement (.shr x y) := by
  intro f hf
  simp only [fixedFields, List.mem_cons, List.not_mem_nil, or_false] at hf
  rcases hf with rfl | rfl <;> (simp only [encode, formXYN_toNat, BitVec.ofNat_eq_ofNat, BitVec.toNat_ofNat]; omega)

theorem subn (x : Reg) (y : Reg) : Statement (.subn x y) := by
  intro f hf
  simp only [fixedFields, List.mem_cons, List.not_mem_nil, or_false] at hf
  rcases hf with rfl | rfl <;> (simp only [encode, formXYN_toNat, BitVec.ofNat_eq_ofNat, BitVec.toNat_ofNat]; omega)

theorem shl (x : Reg) (y : Reg) : Statement (.shl x y) := by
  intro f hf
  simp only [fixedFields, List.mem_cons, List.not_mem_nil, or_false] at hf
  rcases hf with rfl | rfl <;> (simp only [encode, formXYN_toNat, BitVec.ofNat_eq_ofNat, BitVec.toNat_ofNat]; omega)

theorem sneReg (x : Reg) (y : Reg) : Statement (.sneReg x y) := by
  intro f hf
  simp only [fixedFields, List.mem_cons, List.not_mem_nil, or_false] at hf
  rcases hf with rfl | rfl <;> (simp only [encode, formXYN_toNat, BitVec.ofNat_eq_ofNat, BitVec.toNat_ofNat]; omega)

theorem ldI (nnn : BitVec 12) : Statement (.ldI nnn) := by
  intro f hf
  simp only [fixedFields, List.mem_cons, List.not_mem_nil, or_false] at hf
  subst hf
  simp only [encode, formNNN_toNat, BitVec.ofNat_eq_ofNat, BitVec.toNat_ofNat]; omega

theorem jpV0 (nnn : BitVec 12) : Statement (.jpV0 nnn) := by
  intro f hf
  simp only [fixedFields, List.mem_cons, List.not_mem_nil, or_false] at hf
  subst hf
  simp only [encode, formNNN_toNat, BitVec.ofNat_eq_ofNat, BitVec.toNat_ofNat]; omega

theorem rnd (x : Reg) (nn : Byte) : Statement (.rnd x nn) := by
  intro f hf
  simp only [fixedFields, List.mem_cons, List.not_mem_nil, or_false] at hf
  subst hf
  simp only [encode, formXNN_toNat, BitVec.ofNat_eq_ofNat, BitVec.toNat_ofNat]; omega

theorem drw (x : Reg) (y : Reg) (n : Nat) : Statement (.drw x y n) := by
  intro f hf
  simp only [fixedFields, List.mem_cons, List.not_mem_nil, or_false] at hf
  subst hf
  simp only [encode, formXYN_toNat, BitVec.ofNat_eq_ofNat, BitVec.toNat_ofNat]; omega

theorem skp (x : Reg) : Statement (.skp x) := by
  intro f hf
  simp only [fixedFields, List.mem_cons, List.not_mem_nil, or_false] at hf
  rcases hf with rfl | rfl <;> (simp only [encode, formXNN_toNat, BitVec.ofNat_eq_ofNat, BitVec.toNat_ofNat]; omega)

theorem sknp (x : Reg) : Statement (.sknp x) := by
  intro f hf
  simp only [fixedFields, List.mem_cons, List.not_mem_nil, or_false] at hf
  rcases hf with rfl | rfl <;> (simp only [encode, formXNN_toNat, BitVec.ofNat_eq_ofNat, BitVec.toNat_ofNat]; omega)

theorem ldVxDT (x : Reg) : Statement (.ldVxDT x) := by
  intro f hf
  simp only [fixedFields, List.mem_cons, List.not_mem_nil, or_false] at hf
  rcases hf with rfl | rfl <;> (simp only [encode, formXNN_toNat, BitVec.ofNat_eq_ofNat, BitVec.toNat_ofNat]; omega)

theorem ldVxK (x : Reg) : Statement (.ldVxK x) := by
  intro f hf
  simp only [fixedFields, List.mem_cons, List.not_mem_nil, or_false] at hf
  rcases hf with rfl | rfl <;> (simp only [encode, formXNN_toNat, BitVec.ofNat_eq_ofNat, BitVec.toNat_ofNat]; omega)

theorem ldDTVx (x : Reg) : Statement (.ldDTVx x) := by
  intro f hf
  simp only [fixedFields, List.mem_cons, List.not_mem_nil, or_false] at hf
  rcases hf with rfl | rfl <;> (simp only [encode, formXNN_toNat, BitVec.ofNat_eq_ofNat, BitVec.toNat_ofNat]; omega)

theorem ldSTVx (x : Reg) : Statement (.ldSTVx x) := by
  intro f hf
  simp only [fixedFields, List.mem_cons, List.not_mem_nil, or_false] at hf
  rcases hf with rfl | rfl <;> (simp only [encode, formXNN_toNat, BitVec.ofNat_eq_ofNat, BitVec.toNat_ofNat]; omega)

theorem addI (x : Reg) : Statement (.addI x) := by
  intro f hf
  simp only [fixedFields, List.mem_cons, List.not_mem_nil, or_false] at hf
  rcases hf with rfl | rfl <;> (simp only [encode, formXNN_toNat, BitVec.ofNat_eq_ofNat, BitVec.toNat_ofNat]; omega)

theorem ldF (x : Reg) : Statement (.ldF x) := by
  intro f hf
  simp only [fixedFields, List.mem_cons, List.not_mem_nil, or_false] at hf
  rcases hf with rfl | rfl <;> (simp only [encode, formXNN_toNat, BitVec.ofNat_eq_ofNat, BitVec.toNat_ofNat]; omega)

theorem ldB (x : Reg) : Statement (.ldB x) := by
  intro f hf
  simp only [fixedFields, List.mem_cons, List.not_mem_nil, or_false] at hf
  rcases hf with rfl | rfl <;> (simp only [encode, formXNN_toNat, BitVec.ofNat_eq_ofNat, BitVec.toNat_ofNat]; omega)

theorem storeRegs (x : Reg) : Statement (.storeRegs x) := by
  intro f hf
  simp only [fixedFields, List.mem_cons, List.not_mem_nil, or_false] at hf
  rcases hf with rfl | rfl <;> (simp only [encode, formXNN_toNat, BitVec.ofNat_eq_ofNat, BitVec.toNat_ofNat]; omega)

theorem loadRegs (x : Reg) : Statement (.loadRegs x) := by
  intro f hf
  simp only [fixedFields, List.mem_cons, List.not_mem_nil, or_false] at hf
  rcases hf with rfl | rfl <;> (simp only [encode, formXNN_toNat, BitVec.ofNat_eq_ofNat, BitVec.toNat_ofNat]; omega)

end Sys2Proof.Laws.TableRow
end

