-- ==== Sys2Proof/Laws/Step.lean ====
section
/-! SUPPORT. Everything a cycle and a step can do, said once, for the provers to cite instead of unfolding them. -/

namespace Sys2Proof.Machine

/-- What one cycle can do (40_cycle.md R82): fault on the fetch, run the decoded instruction, or run the Unknown-opcode row. -/
theorem cycle_cases (s : State) :
    (∃ a, fetchFault (latchFpc s) = some a ∧ cycle s = .next (raiseFault none a (latchFpc s))) ∨
    (fetchFault (latchFpc s) = none ∧ ∃ i, decodeWord (fetchedWord (latchFpc s)) = .ok i ∧
      cycle s = exec i (advancePc (fetchedWord (latchFpc s)) (latchFpc s))) ∨
    (fetchFault (latchFpc s) = none ∧ ∃ e, decodeWord (fetchedWord (latchFpc s)) = .error e ∧
      cycle s = .next (report .unknownOpcode (fetchedWord (latchFpc s)) none (advancePc (fetchedWord (latchFpc s)) (latchFpc s)))) := by
  unfold cycle
  split <;> rename_i h
  · exact .inl ⟨_, h, rfl⟩
  · unfold execWord
    split <;> rename_i hd
    · exact .inr (.inl ⟨h, _, hd, rfl⟩)
    · exact .inr (.inr ⟨h, _, hd, rfl⟩)

/-- What one cycle's slot can answer as a next state: nothing on a halted block (R81), or a cycle and its end. -/
theorem runSlot_next {s t : State} (h : runSlot s = .next t) :
    (s.halted = true ∧ t = s) ∨ (s.halted = false ∧ ∃ u, cycle s = .next u ∧ t = endSlot u) := by
  unfold runSlot at h
  split at h <;> rename_i hh
  · exact .inl ⟨hh, (Host.Outcome.next.inj h).symm⟩
  · split at h <;> rename_i hc
    · exact .inr ⟨by simpa using hh, _, hc, (Host.Outcome.next.inj h).symm⟩
    · cases h
    · cases h

/-- What one step can answer as a next state: a slot, the host's call of `step()` and a slot, a write of the key latch, or an init
(60_exceptions.md R224). -/
theorem step_next {s t : State} (h : step s = .next t) :
    ((s.slot = 0 → s.host = []) ∧ runSlot s = .next t) ∨
    (s.slot = 0 ∧ ∃ rest, s.host = .callStep :: rest ∧ runSlot { s with host := rest } = .next t) ∨
    (s.slot = 0 ∧ ∃ k rest, s.host = .writeKeys k :: rest ∧ t = hostWriteKeys k { s with host := rest }) ∨
    (s.slot = 0 ∧ ∃ l rest, s.host = .init l :: rest ∧ hostInit l { s with host := rest } = .next t) := by
  unfold step at h
  split at h <;> rename_i h0
  · unfold hostTurn at h
    split at h <;> rename_i hh
    · exact .inl ⟨fun _ => hh, h⟩
    · exact .inr (.inl ⟨h0, _, hh, h⟩)
    · exact .inr (.inr (.inl ⟨h0, _, _, hh, (Host.Outcome.next.inj h).symm⟩))
    · exact .inr (.inr (.inr ⟨h0, _, _, hh, h⟩))
  · exact .inl ⟨fun e => absurd e h0, h⟩

/-- What an init can answer as a next state: a failed init, or a launch whose image fits (70_reset_and_hazards.md R240 to R242). -/
theorem hostInit_next {l : Load} {s t : State} (h : hostInit l s = .next t) :
    (l = .unreadable ∧ t = failedInit s) ∨ ∃ a, l = .image a ∧ a.image.length ≤ a.params.maxImage ∧ t = launchState a s := by
  unfold hostInit at h
  split at h
  · exact .inl ⟨rfl, (Host.Outcome.next.inj h).symm⟩
  · split at h <;> rename_i hl
    · exact .inr ⟨_, rfl, hl, (Host.Outcome.next.inj h).symm⟩
    · cases h

/-- A run of the machine, one step at a time. -/
theorem run_of_step {n : Nat} {s t : State} (h : step s = .next t) : core.run (n + 1) s = core.run n t := by
  have hc : core.step s = .next t := h
  rw [Host.Core.run.eq_2 core s n, hc]

end Sys2Proof.Machine
end

