-- ==== Sys2Proof/Tests/Slice0.lean ====
section
/-! SUPPORT. The model's own tests: the smoke test of WellFormed; a word written out from spec/30_encoding.md R65 and R67 for every constructor; at most two one-step tests an instruction, whose expected results are the vectors of spec/95_test_vectors.md named in each docstring; and a witness that meets the hypotheses of each obligation. -/

namespace Sys2Proof.Tests

open Sys2Proof.Machine

/-! ### Helpers -/

/-- The state with registers set. -/
def regs : List (Reg × Nat) → State → State
  | [], s => s
  | (r, n) :: l, s => regs l (writeReg r n s)

/-- The state with bytes stored from an address on. -/
def bytes (a : Nat) (bs : List Byte) (s : State) : State := storeBytes a bs s

/-- The state with keys held. -/
def holding : List Reg → State → State
  | [], s => s
  | k :: l, s => holding l { s with key := s.key.set k true }

/-- The state with pixels set. -/
def pixels : List (Nat × Nat) → State → State
  | [], s => s
  | (x, y) :: l, s => pixels l { s with fb := s.fb.modify x fun col => col.set y true }

/-- The word is placed at pc and one step is run, and the next state has the property. -/
def stepped (w : Nat) (s : State) (p : State → Bool) : Bool :=
  match step (s.withFetchWord 16 w) with
  | .next t => p t
  | _ => false

/-- One step is run, and the next state has the property. -/
def stepsTo (s : State) (p : State → Bool) : Bool :=
  match step s with
  | .next t => p t
  | _ => false

/-- A pixel of a framebuffer. -/
def lit (s : State) (x y : Nat) : Bool := pixel s.fb x y

/-- The one record of the fault vectors M16, M21, M24 and D14. -/
def faultAt (fpc : Nat) (w : Word) (addr : Nat) : Option FaultRecord := some { kind := .memoryOutOfRange, fpc := fpc, w := some w, addr := addr }

/-- `State.Fits` as a check. -/
def fits (s : State) : Bool :=
  decide (s.v.length = s.params.numV) && s.v.all (fun n => decide (n < 2 ^ s.params.vWidth)) && decide (s.index < 2 ^ s.params.iWidth) &&
    decide (s.pc < 2 ^ s.params.pcWidth) && decide (s.stack.length = s.params.stackDepth) &&
    s.stack.all (fun n => decide (n < 2 ^ s.params.stackEntryWidth)) && decide (s.dt < 2 ^ s.params.timerWidth) &&
    decide (s.st < 2 ^ s.params.timerWidth) && decide (s.fpc < 2 ^ s.params.pcWidth)

theorem fits_of {s : State} (h : fits s = true) : s.Fits := by
  simp only [fits, Bool.and_eq_true, decide_eq_true_eq, List.all_eq_true] at h
  obtain ⟨⟨⟨⟨⟨⟨⟨⟨a, b⟩, c⟩, d⟩, e⟩, f⟩, g⟩, i⟩, j⟩ := h
  exact ⟨a, b, c, d, e, f, g, i, j⟩

/-- The default parameters with the other setting of each. -/
def latched (s : State) : State := { s with params := { s.params with vfOrder := .latched } }
def registerValue (s : State) : State := { s with params := { s.params with fontPointer := .registerValue } }
def keyCode (s : State) : State := { s with params := { s.params with keyWaitResult := .keyCode } }
def wrapping (s : State) : State := { s with params := { s.params with oobPolicy := .wrap } }

/-! ### WellFormed (R65, R66, R174) -/

theorem test_wellformed_rejects_sixteen_rows : (Instr.drw 1 2 16).wellFormed = false := by decide
theorem test_wellformed_accepts_fifteen_rows : (Instr.drw 1 2 15).wellFormed = true := by decide

/-! ### Decoding (R65, R67): every constructor, from its word written out -/

theorem test_decode_control_flow :
    decodeWord 0b0000000011101110#16 = .ok .ret ∧ decodeWord 0b0001101010111100#16 = .ok (.jp 0xABC) ∧
    decodeWord 0b0010001100000001#16 = .ok (.call 0x301) ∧ decodeWord 0b0011000101000010#16 = .ok (.seImm 1 0x42) ∧
    decodeWord 0b0100000101000010#16 = .ok (.sneImm 1 0x42) ∧ decodeWord 0b0101000100100000#16 = .ok (.seReg 1 2) ∧
    decodeWord 0b1001000100100000#16 = .ok (.sneReg 1 2) ∧ decodeWord 0b1011001100001111#16 = .ok (.jpV0 0x30F) :=
  ⟨rfl, rfl, rfl, rfl, rfl, rfl, rfl, rfl⟩

theorem test_decode_alu :
    decodeWord 0b0110101011110001#16 = .ok (.ldImm 10 0xF1) ∧ decodeWord 0b0111001100000010#16 = .ok (.addImm 3 0x02) ∧
    decodeWord 0b1000000100100000#16 = .ok (.ldReg 1 2) ∧ decodeWord 0b1000000100100001#16 = .ok (.orReg 1 2) ∧
    decodeWord 0b1000000100100010#16 = .ok (.andReg 1 2) ∧ decodeWord 0b1000000100100011#16 = .ok (.xorReg 1 2) ∧
    decodeWord 0b1000000100100100#16 = .ok (.addReg 1 2) ∧ decodeWord 0b1000000100100101#16 = .ok (.sub 1 2) ∧
    decodeWord 0b1000000100100110#16 = .ok (.shr 1 2) ∧ decodeWord 0b1000000100100111#16 = .ok (.subn 1 2) ∧
    decodeWord 0b1000000100101110#16 = .ok (.shl 1 2) ∧ decodeWord 0b1100000100001111#16 = .ok (.rnd 1 0x0F) :=
  ⟨rfl, rfl, rfl, rfl, rfl, rfl, rfl, rfl, rfl, rfl, rfl, rfl⟩

theorem test_decode_memory_access :
    decodeWord 0b1010000100100011#16 = .ok (.ldI 0x123) ∧ decodeWord 0b1111001000011110#16 = .ok (.addI 2) ∧
    decodeWord 0b1111010100101001#16 = .ok (.ldF 5) ∧ decodeWord 0b1111000100110011#16 = .ok (.ldB 1) ∧
    decodeWord 0b1111001001010101#16 = .ok (.storeRegs 2) ∧ decodeWord 0b1111001001100101#16 = .ok (.loadRegs 2) :=
  ⟨rfl, rfl, rfl, rfl, rfl, rfl⟩

theorem test_decode_display :
    decodeWord 0b0000000011100000#16 = .ok .cls ∧ decodeWord 0b1101101010110010#16 = .ok (.drw 10 11 2) := ⟨rfl, rfl⟩

theorem test_decode_timers_and_input :
    decodeWord 0b1110000110011110#16 = .ok (.skp 1) ∧ decodeWord 0b1110000110100001#16 = .ok (.sknp 1) ∧
    decodeWord 0b1111000100000111#16 = .ok (.ldVxDT 1) ∧ decodeWord 0b1111001000001010#16 = .ok (.ldVxK 2) ∧
    decodeWord 0b1111000000010101#16 = .ok (.ldDTVx 0) ∧ decodeWord 0b1111001000011000#16 = .ok (.ldSTVx 2) :=
  ⟨rfl, rfl, rfl, rfl, rfl, rfl⟩

/-- Vectors Y3, Y4 and Y5. -/
theorem test_decode_rejects_unknown_words :
    decodeWord 0xFFFF#16 = .error (.unknownOpcode 0xFFFF) ∧ decodeWord 0x5121#16 = .error (.unknownOpcode 0x5121) ∧
    decodeWord 0x8128#16 = .error (.unknownOpcode 0x8128) ∧ decodeWord 0xE19F#16 = .error (.unknownOpcode 0xE19F) ∧
    decodeWord 0xF000#16 = .error (.unknownOpcode 0xF000) ∧ decodeWord 0x0123#16 = .error (.unknownOpcode 0x0123) :=
  ⟨rfl, rfl, rfl, rfl, rfl, rfl⟩

/-- R71: one byte is no instruction. -/
theorem test_decode_truncated : decode [0x60] = .error .truncated := rfl

theorem test_table_word : decodeTableWord 16 0xD015 = some (.drw 0 1 5) ∧ decodeTableWord 16 0x5121 = none := by decide

/-- Lines of programs P1, P2 and P3, and R73's SHR without a second register. -/
theorem test_assemble : assembleText "LD V2, [I]".toList = some [0xF2, 0x65] ∧ assembleText "ADD V0, 0x01".toList = some [0x70, 0x01] ∧
    assembleText "DRW VA, VB, 2".toList = some [0xDA, 0xB2] ∧ assembleText ".byte 0xFF, 0x81".toList = some [0xFF, 0x81] ∧
    assembleText "SHR V1".toList = some [0x81, 0x06] ∧ assembleText "LD V0, 0x100".toList = none := by decide

/-- Assumption 17: spaces around an operand are free, and inside one they are an error. -/
theorem test_assemble_spaces : assembleText " LD  V1 , 12 ".toList = some [0x61, 0x0C] ∧ assembleText "LD V 1, 12".toList = none ∧
    assembleText "LD V1, 1 2".toList = none ∧ assembleText "RET ".toList = some [0x00, 0xEE] := by decide

/-- R73: a word that matches no row is printed as .word. -/
theorem test_disassemble : lineText (disassemble 0x0123) = ".word 0x0123".toList ∧ lineText (disassemble 0xA214) = "LD I, 0x214".toList := by decide

/-- R51: the high byte is fetched from the lower address (Y1). -/
theorem test_fetch_big_endian : stepsTo (bytes 0x200 [0x60, 0x12] .reset) (fun t => readReg t 0 == 0x12 && t.pc == 0x202) = true := by decide

/-- Y8: an odd pc fetches like any other. -/
theorem test_fetch_odd_pc : stepped 0x6105 { State.reset with pc := 0x201 } (fun t => readReg t 1 == 0x05 && t.pc == 0x203) = true := by decide

/-- Y6: at PC_TOP the pc does not advance and the saturation is reported. -/
theorem test_pc_saturates : stepped 0x6012 { State.reset with pc := 0xFFE }
    (fun t => t.pc == 0xFFE && readReg t 0 == 0x12 && t.diag == [{ code := .pcSaturation, fpc := 0xFFE, w := 0x6012, info := none }]) = true := by decide

/-- Y7: a fetch at 0xFFF faults at 0x1000. -/
theorem test_fetch_fault : stepsTo { State.reset with pc := 0xFFF, dt := 5 } (fun t => t.pc == 0xFFF && t.halted && t.dt == 5 && t.slot == 0 &&
    t.fault == some { kind := .memoryOutOfRange, fpc := 0xFFF, w := none, addr := 0x1000 }) = true := by decide

/-- Y2 and I6: after the launch of an empty image the first cycle is Unknown-opcode. -/
theorem test_reset_runs_unknown_opcode : stepsTo .reset (fun t => t.pc == 0x202 &&
    t.diag == [{ code := .unknownOpcode, fpc := 0x200, w := 0x0000, info := none }]) = true := by decide

/-- Y9: the tenth cycle of a frame step is followed by the tick. -/
theorem test_tick_after_the_tenth_cycle : stepped 0x1200 { State.reset with dt := 5, st := 1, slot := 9 }
    (fun t => t.dt == 4 && t.st == 0 && t.slot == 0) = true := by decide

/-- Y10: a timer at 0 stays 0. -/
theorem test_tick_floor : stepped 0x1200 { State.reset with slot := 9 } (fun t => t.dt == 0 && t.st == 0) = true := by decide

/-! ### Control flow (vectors of 2.2) -/

/-- B3, B5. -/
theorem test_jp : stepped 0x1ABC .reset (fun t => t.pc == 0xABC) = true ∧ stepped 0x1201 .reset (fun t => t.pc == 0x201) = true := by decide

/-- B7. -/
theorem test_call : stepped 0x2300 { State.reset with sp := 15 } (fun t => t.pc == 0x300 && t.sp == 16 && stackSlot t 15 == 0x202) = true := by decide

/-- B8. -/
theorem test_call_overflow : stepped 0x2300 { State.reset with sp := 16 } (fun t => t.pc == 0x202 && t.sp == 16 &&
    t.diag == [{ code := .stackOverflow, fpc := 0x200, w := 0x2300, info := none }]) = true := by decide

/-- B1. -/
theorem test_ret : stepped 0x00EE { State.reset with sp := 1, stack := State.reset.stack.set 0 0x204, pc := 0x300 }
    (fun t => t.pc == 0x204 && t.sp == 0 && stackSlot t 0 == 0x204) = true := by decide

/-- B2. -/
theorem test_ret_underflow : stepped 0x00EE .reset (fun t => t.pc == 0x202 && t.sp == 0 &&
    t.diag == [{ code := .stackUnderflow, fpc := 0x200, w := 0x00EE, info := none }]) = true := by decide

/-- B9, B10. -/
theorem test_se_imm : stepped 0x3142 (regs [(1, 0x42)] .reset) (fun t => t.pc == 0x204) = true ∧
    stepped 0x3142 (regs [(1, 0x41)] .reset) (fun t => t.pc == 0x202) = true := by decide

/-- B11, B12. -/
theorem test_sne_imm : stepped 0x4142 (regs [(1, 0x42)] .reset) (fun t => t.pc == 0x202) = true ∧
    stepped 0x4142 (regs [(1, 0x41)] .reset) (fun t => t.pc == 0x204) = true := by decide

/-- B13, B14. -/
theorem test_se_reg : stepped 0x5120 (regs [(1, 7), (2, 7)] .reset) (fun t => t.pc == 0x204) = true ∧
    stepped 0x5120 (regs [(1, 7), (2, 8)] .reset) (fun t => t.pc == 0x202) = true := by decide

/-- B16, B17. -/
theorem test_sne_reg : stepped 0x9120 (regs [(1, 7), (2, 8)] .reset) (fun t => t.pc == 0x204) = true ∧
    stepped 0x9120 (regs [(1, 7), (2, 7)] .reset) (fun t => t.pc == 0x202) = true := by decide

/-- B18, B19. -/
theorem test_jp_v0 : stepped 0xB300 (regs [(0, 0x10), (3, 0x40)] .reset) (fun t => t.pc == 0x310) = true ∧
    stepped 0xBFFF (regs [(0, 0xFF)] .reset) (fun t => t.pc == 0x10FE) = true := by decide

/-- B20: a taken skip at a saturated pc. -/
theorem test_skip_at_pc_top : stepped 0x3000 { State.reset with pc := 0xFFE } (fun t => t.pc == 0x1000) = true := by decide

/-! ### Arithmetic and logic (vectors of 2.3) -/

/-- A1, A4. -/
theorem test_loads : stepped 0x6AFF .reset (fun t => readReg t 10 == 0xFF) = true ∧
    stepped 0x8120 (regs [(1, 0x12), (2, 0x34)] .reset) (fun t => readReg t 1 == 0x34 && readReg t 2 == 0x34) = true := by decide

/-- A2, A3. -/
theorem test_add_imm : stepped 0x7302 (regs [(3, 0xFF), (15, 0x77)] .reset) (fun t => readReg t 3 == 0x01 && readReg t 15 == 0x77) = true ∧
    stepped 0x7F01 (regs [(15, 0xFF)] .reset) (fun t => readReg t 15 == 0x00) = true := by decide

/-- A5. -/
theorem test_logic :
    stepped 0x8121 (regs [(1, 0xF0), (2, 0x3C), (15, 0x77)] .reset) (fun t => readReg t 1 == 0xFC && readReg t 15 == 0x77) = true ∧
    stepped 0x8122 (regs [(1, 0xF0), (2, 0x3C), (15, 0x77)] .reset) (fun t => readReg t 1 == 0x30 && readReg t 15 == 0x77) = true ∧
    stepped 0x8123 (regs [(1, 0xF0), (2, 0x3C), (15, 0x77)] .reset) (fun t => readReg t 1 == 0xCC && readReg t 15 == 0x77) = true := by decide

/-- A7, A8. -/
theorem test_add_reg : stepped 0x8124 (regs [(1, 0xF0), (2, 0x20)] .reset) (fun t => readReg t 1 == 0x10 && readReg t 15 == 1) = true ∧
    stepped 0x8124 (regs [(1, 0x7F), (2, 0x80)] .reset) (fun t => readReg t 1 == 0xFF && readReg t 15 == 0) = true := by decide

/-- F2, under both settings. -/
theorem test_add_reg_reading_vf : stepped 0x81F4 (regs [(1, 0xF0), (15, 0x20)] .reset) (fun t => readReg t 1 == 0xF1 && readReg t 15 == 1) = true ∧
    stepped 0x81F4 (latched (regs [(1, 0xF0), (15, 0x20)] .reset)) (fun t => readReg t 1 == 0x10 && readReg t 15 == 1) = true := by decide

/-- A12, A13. -/
theorem test_sub : stepped 0x8125 (regs [(1, 0x05), (2, 0x10)] .reset) (fun t => readReg t 1 == 0xF5 && readReg t 15 == 0) = true ∧
    stepped 0x8125 (regs [(1, 0x33), (2, 0x33)] .reset) (fun t => readReg t 1 == 0x00 && readReg t 15 == 0) = true := by decide

/-- F4, under both settings. -/
theorem test_sub_into_vf : stepped 0x8F15 (regs [(15, 0x10), (1, 0x05)] .reset) (fun t => readReg t 15 == 0xFC) = true ∧
    stepped 0x8F15 (latched (regs [(15, 0x10), (1, 0x05)] .reset)) (fun t => readReg t 15 == 0x0B) = true := by decide

/-- A16, F9. -/
theorem test_subn : stepped 0x8127 (regs [(1, 0x10), (2, 0x05)] .reset) (fun t => readReg t 1 == 0xF5 && readReg t 15 == 0) = true ∧
    stepped 0x81F7 (regs [(1, 0x05), (15, 0x10)] .reset) (fun t => readReg t 1 == 0xFC && readReg t 15 == 1) = true := by decide

/-- A14, F7. -/
theorem test_shr : stepped 0x8126 (regs [(1, 0x05), (2, 0xAA)] .reset) (fun t => readReg t 1 == 0x02 && readReg t 15 == 1 && readReg t 2 == 0xAA) = true ∧
    stepped 0x8F16 (regs [(15, 0x03)] .reset) (fun t => readReg t 15 == 0x00) = true := by decide

/-- A19, F10. -/
theorem test_shl : stepped 0x810E (regs [(1, 0x81)] .reset) (fun t => readReg t 1 == 0x02 && readReg t 15 == 1) = true ∧
    stepped 0x8F1E (latched (regs [(15, 0xC0)] .reset)) (fun t => readReg t 15 == 0x80) = true := by decide

/-- A23: a zero mask gives 0 whatever byte is drawn; the draw is taken. -/
theorem test_rnd : ∃ t, exec (.rnd 1 0x00) State.reset = .next t ∧ readReg t 1 = 0 ∧ t.draws = 1 :=
  ⟨_, rfl, by
    rw [readReg_writeReg, if_pos (by decide)]
    change (Config.randomByte 0 &&& 0#8).toNat % 256 = 0
    rw [BitVec.and_zero]
    rfl, rfl⟩

/-! ### Index register and memory access (vectors of 2.4) -/

/-- M1. -/
theorem test_ld_i : stepped 0xA123 .reset (fun t => t.index == 0x123) = true := by decide

/-- M3, M4. -/
theorem test_add_i : stepped 0xF01E { regs [(0, 1)] .reset with index := 0xFFF } (fun t => t.index == 0x1000) = true ∧
    stepped 0xF01E { regs [(0, 1)] .reset with index := 0xFFFF } (fun t => t.index == 0 && t.diag == []) = true := by decide

/-- M5, under both settings. -/
theorem test_ld_f : stepped 0xF529 (regs [(5, 0x0A)] .reset) (fun t => t.index == 0x019) = true ∧
    stepped 0xF529 (registerValue (regs [(5, 0x0A)] .reset)) (fun t => t.index == 0x032) = true := by decide

/-- M14. -/
theorem test_ld_b : stepped 0xF133 { regs [(1, 255)] .reset with index := 0x300 }
    (fun t => t.index == 0x300 && loadByte t 0x300 == 2 && loadByte t 0x301 == 5 && loadByte t 0x302 == 5 && loadByte t 0x303 == 0) = true := by decide

/-- M16. -/
theorem test_ld_b_fault : stepped 0xF033 { State.reset with index := 0xFFE } (fun t => t.halted && t.fault == faultAt 0x200 0xF033 0x1000 &&
    loadByte t 0xFFE == 0 && loadByte t 0xFFF == 0) = true := by decide

/-- M17. -/
theorem test_store_regs : stepped 0xF255 { regs [(0, 1), (1, 2), (2, 3), (3, 9)] .reset with index := 0x300 }
    (fun t => t.index == 0x300 && loadBytes t 0x300 4 == [1, 2, 3, 0]) = true := by decide

/-- M21. -/
theorem test_store_regs_fault : stepped 0xF155 { regs [(0, 0x55)] .reset with index := 0xFFF }
    (fun t => t.halted && t.fault == faultAt 0x200 0xF155 0x1000 && loadByte t 0xFFF == 0) = true := by decide

/-- M22. -/
theorem test_load_regs : stepped 0xF265 { bytes 0x300 [1, 2, 3, 4] .reset with index := 0x300 }
    (fun t => t.index == 0x300 && readReg t 0 == 1 && readReg t 1 == 2 && readReg t 2 == 3 && readReg t 3 == 0) = true := by decide

/-- M24. -/
theorem test_load_regs_fault : stepped 0xF165 { regs [(0, 0x55), (1, 0x66)] .reset with index := 0xFFF }
    (fun t => t.halted && t.fault == faultAt 0x200 0xF165 0x1000 && readReg t 0 == 0x55 && readReg t 1 == 0x66) = true := by decide

/-! ### Display (vectors of 2.5) -/

/-- D1. -/
theorem test_cls : stepped 0x00E0 (pixels [(3, 4), (63, 31)] (regs [(15, 0x44)] .reset)) (fun t => !lit t 3 4 && !lit t 63 31 && readReg t 15 == 0x44) = true := by decide

/-- D11: the right edge clips, and one collision is enough. -/
theorem test_drw_clip_and_collision : stepped 0xD011 (pixels [(63, 0)] { bytes 0x300 [0xFF] (regs [(0, 60)] .reset) with index := 0x300 })
    (fun t => lit t 60 0 && lit t 62 0 && !lit t 63 0 && !lit t 0 0 && readReg t 15 == 1) = true := by decide

/-- D6: the start wraps; the glyph's bit 7 is its leftmost pixel. -/
theorem test_drw_start_wraps : stepped 0xD011 (regs [(0, 0x43), (1, 0x22)] .reset)
    (fun t => !lit t 2 2 && lit t 3 2 && lit t 6 2 && !lit t 7 2 && readReg t 15 == 0) = true := by decide

/-! ### Timers and input (vectors of 2.6) -/

/-- T1, T2, T4. -/
theorem test_timers : stepped 0xF107 { State.reset with dt := 3 } (fun t => readReg t 1 == 3 && t.dt == 3) = true ∧
    stepped 0xF015 (regs [(0, 3)] .reset) (fun t => t.dt == 3 && t.st == 0) = true ∧
    stepped 0xF218 { regs [(2, 0x3C)] .reset with slot := 9 } (fun t => t.st == 0x3B && t.dt == 0) = true := by decide

/-- K7, K2. -/
theorem test_skp : stepped 0xE19E (holding [15] (regs [(1, 0x0F)] .reset)) (fun t => t.pc == 0x204) = true ∧
    stepped 0xE19E (regs [(1, 7)] .reset) (fun t => t.pc == 0x202) = true := by decide

/-- K3. -/
theorem test_skp_invalid : stepped 0xE19E (regs [(1, 0x10)] .reset) (fun t => t.pc == 0x202 &&
    t.diag == [{ code := .invalidKeyOperand, fpc := 0x200, w := 0xE19E, info := some 0x10 }]) = true := by decide

/-- K4, K5. -/
theorem test_sknp : stepped 0xE1A1 (regs [(1, 7)] .reset) (fun t => t.pc == 0x204) = true ∧
    stepped 0xE1A1 (holding [7] (regs [(1, 7)] .reset)) (fun t => t.pc == 0x202) = true := by decide

/-- K6. -/
theorem test_sknp_invalid : stepped 0xE1A1 (regs [(1, 0xFF)] .reset) (fun t => t.pc == 0x202 &&
    t.diag == [{ code := .invalidKeyOperand, fpc := 0x200, w := 0xE1A1, info := some 0xFF }]) = true := by decide

/-- K8, K13. -/
theorem test_key_wait : stepped 0xF20A .reset (fun t => t.pc == 0x200 && readReg t 2 == 0 && t.diag == []) = true ∧
    stepped 0xF20A { State.reset with pc := 0xFFE } (fun t => t.pc == 0xFFE && t.diag.length == 1) = true := by decide

/-- K10, under both settings. -/
theorem test_key_wait_completes : stepped 0xF20A (holding [3, 9] .reset) (fun t => t.pc == 0x202 && readReg t 2 == 1) = true ∧
    stepped 0xF20A (keyCode (holding [9, 3] .reset)) (fun t => readReg t 2 == 3) = true := by decide

/-! ### Conditions and the host's ports (vectors of 2.7 and 2.8) -/

/-- E1: the saturation is reported before the instruction's own condition. -/
theorem test_condition_order : stepped 0x00EE { State.reset with pc := 0xFFE }
    (fun t => t.pc == 0xFFE && t.diag.map (fun r => r.code.code) == [1, 3]) = true := by decide

/-- E4: a halted block does nothing. -/
theorem test_halted_noop : stepsTo { State.reset with halted := true, dt := 5 } (fun t => t.halted && t.dt == 5 && t.pc == 0x200 && t.diag == []) = true := by decide

/-- The launch of I1 and I5, on a faulted block. -/
def launch1 : Launch :=
  { image := [0x12, 0x00], params := defaultParams, font := Vector.replicate _ 0xAA, fill := [(0x100, 6), (0x100, 7), (0x200, 9)], fb := [] }

theorem test_launch : stepsTo { regs [(0, 1)] .reset with halted := true, fault := faultAt 0x200 0xF033 0x1000, host := [.init (.image launch1)] }
    (fun t => !t.halted && t.fault == none && t.pc == 0x200 && readReg t 0 == 0 && loadByte t 0x4F == 0xAA && loadByte t 0x50 == 0 &&
      loadByte t 0x100 == 7 && loadByte t 0x200 == 0x12 && loadByte t 0x201 == 0 && t.host == []) = true := by decide +kernel

/-- The defaults of R5's table, MAX_IMAGE and the font's length among them. -/
theorem test_default_parameters : defaultParams.memSize = 4096 ∧ defaultParams.programBase = 0x200 ∧ defaultParams.stackDepth = 16 ∧
    defaultParams.cyclesPerFrame = 10 ∧ defaultParams.fbWidth = 64 ∧ defaultParams.fbHeight = 32 ∧ defaultParams.numKeys = 16 ∧
    defaultParams.maxImage = 3584 ∧ defaultParams.fontBytes = 80 ∧ fontTable.length = 80 := by decide

/-- Another machine of R5's table. -/
def small : Params :=
  { defaultParams with
    memSize := 32, fontBase := 1, fontGlyphs := 2, fontGlyphBytes := 3, programBase := 0x10, maxImage := 4, numV := 17, vWidth := 6,
    iWidth := 7, pcWidth := 5, stackDepth := 2, stackEntryWidth := 3, timerWidth := 4, cyclesPerFrame := 1, fbWidth := 4, fbHeight := 2,
    numKeys := 3
    memSize_ge := by decide, font_fits := by decide, image_fits := by decide, programBase_lt := by decide, numV_ge := by decide,
    vWidth_pos := by decide, cycles_pos := by decide, fb_pos := by decide, keys_le := by decide }

/-- Its launch, of the word `w`, with the previous screen as FB_INIT (D19). -/
def smallLaunch (w : Word) (fb : Framebuffer) : Launch :=
  { image := bytesOfWord w, params := small, font := Vector.replicate _ 0xAA, fill := [], fb := fb }

/-- R5, R241: every size is the launch's, and the one cycle of its frame step is followed by the tick (R80). -/
theorem test_launch_of_other_sizes :
    stepsTo { State.reset with host := [.init (.image (smallLaunch 0xF015 [[true]]))] } (fun t =>
      t.pc == 0x10 && t.stack.length == 2 && t.fb == [[true, false], [false, false], [false, false], [false, false]] && t.key.length == 3 &&
      loadByte t 0 == 0 && loadByte t 1 == 0xAA && loadByte t 6 == 0xAA && loadByte t 7 == 0 && loadByte t 0x10 == 0xF0 &&
      stepsTo (regs [(0, 5)] t) (fun u => u.dt == 4 && u.slot == 0)) = true := by decide

/-- R50, R172, R193: the screen clips, a key number is invalid, and a fetch faults, at the launch's sizes. -/
theorem test_steps_at_other_sizes :
    stepsTo { launchState (smallLaunch 0xD011 []) State.reset with index := 1 } (fun t => lit t 0 0 && !lit t 1 0 && lit t 2 0 && !lit t 4 0 && t.fb.length == 4) = true ∧
    stepsTo (regs [(1, 3)] (launchState (smallLaunch 0xE19E []) State.reset)) (fun t => t.diag.map (fun r => r.code.code) == [5]) = true ∧
    stepsTo { launchState (smallLaunch 0x0000 []) State.reset with pc := 0x1F } (fun t => t.fault.map (fun r => r.addr) == some 32) = true := by decide

/-- R5: the registers have the widths of the launch. The carry leaves bit 5, I wraps at 128, a timer at 16, pc at 32, and a slot at 8. -/
theorem test_steps_at_other_widths :
    stepsTo (regs [(1, 0x3F), (2, 3)] (launchState (smallLaunch 0x8124 []) .reset)) (fun t => readReg t 1 == 2 && readReg t 15 == 1) = true ∧
    stepsTo { regs [(1, 2)] (launchState (smallLaunch 0xF11E []) .reset) with index := 127 } (fun t => t.index == 1) = true ∧
    stepsTo (regs [(1, 0x25)] (launchState (smallLaunch 0xF115 []) .reset)) (fun t => t.dt == 4) = true ∧
    stepsTo (launchState (smallLaunch 0x2025 []) .reset) (fun t => t.pc == 5 && stackSlot t 0 == 2) = true ∧
    (launchState (smallLaunch 0 []) .reset).v.length = 17 := by decide

/-- I2 and R244: after LoadError, and before any init, the block is halted and its step does nothing. -/
theorem test_load_error : ∃ t, step { State.reset with host := [.init .unreadable] } = .next t ∧ t.halted = true ∧ step t = .next t := ⟨_, rfl, rfl, rfl⟩
theorem test_before_init : (beforeInit defaultParams []).halted = true ∧ step (beforeInit defaultParams []) = .next (beforeInit defaultParams []) := ⟨rfl, rfl⟩

/-- Y12 in part: a program placed in memory runs in order, one cycle a step. -/
theorem test_two_steps : stepsTo (bytes 0x200 [0x60, 0x01, 0x70, 0x01] .reset)
    (fun t => t.slot == 1 && stepsTo t (fun u => readReg u 0 == 2 && u.pc == 0x204 && u.slot == 2)) = true := by decide

/-! ### Witnesses: the hypotheses of each obligation, met together -/

/-- A state of the invariant with a word at pc. -/
def placed (w : Nat) : State := State.reset.withFetchWord 16 w

/-- A recorded fault, halted, between frame steps. -/
def faulted : State := { State.reset with halted := true, fault := faultAt 0x200 0xF033 0x1000 }

theorem witness_inv : (placed 0x6012).Inv :=
  ⟨by decide, fits_of (by decide), by decide, ⟨by decide, by decide⟩, by decide, by decide, by decide, by decide⟩
theorem witness_inv_faulted : faulted.Inv :=
  ⟨by decide, fits_of (by decide), by decide, ⟨by decide, by decide⟩, by decide, by decide, by decide, by decide⟩
theorem witness_runs : State.reset.Runs := ⟨rfl, fun _ => rfl⟩
theorem witness_noInit : State.reset.NoInit := fun _ _ _ => nofun

theorem witness_DecodeOfEncodeIsTheInstruction : (Instr.drw 15 0 15).wellFormed = true := by decide
theorem witness_StepRunsTheDecodedInstruction :
    (placed 0x6012).halted = false ∧ (placed 0x6012).pc + 1 < State.reset.params.memSize ∧
    decode [loadByte (placed 0x6012) 0x200, loadByte (placed 0x6012) 0x201] = .ok (.ldImm 0 0x12, []) ∧ (placed 0x6012).Runs ∧
    ∃ t, exec (.ldImm 0 0x12) (advanced (placed 0x6012) (nextWord (placed 0x6012))) = .next t :=
  ⟨rfl, by decide, rfl, ⟨rfl, fun _ => rfl⟩, _, rfl⟩
theorem witness_StepRunsTheDecodedInstruction_last_address :
    ({ State.reset with pc := 0xFFE, host := [.callStep] } : State).pc + 1 < State.reset.params.memSize ∧
    (wrapping { State.reset with pc := 0xFFF }).params.oobPolicy = .wrap ∧
    ∃ rest, ({ State.reset with pc := 0xFFE, host := [.callStep] } : State).host = .callStep :: rest := ⟨by decide, rfl, _, rfl⟩
theorem witness_UnknownWordIsReportedAndSkipped : State.reset.Runs ∧ State.reset.pc + 1 < State.reset.params.memSize ∧
    decodeWord (nextWord State.reset) = .error (.unknownOpcode 0) := ⟨witness_runs, by decide, rfl⟩
theorem witness_FetchOutsideMemoryFaults : ({ State.reset with pc := 0xFFF } : State).RunsCycle ∧ State.reset.params.oobPolicy = .fault ∧
    State.reset.params.memSize ≤ ({ State.reset with pc := 0xFFF } : State).pc + 1 ∧
    ({ State.reset with pc := 0xFFFF, host := [.callStep] } : State).RunsCycle :=
  ⟨⟨rfl, fun _ => .inl rfl⟩, rfl, by decide, rfl, fun _ => .inr ⟨_, rfl⟩⟩
theorem witness_HaltedStepIsANoOp : faulted.halted = true ∧ faulted.slot = 0 ∧ faulted.host = [] ∧
    ∃ rest, ({ faulted with host := [.callStep] } : State).host = .callStep :: rest := ⟨rfl, rfl, rfl, _, rfl⟩
theorem witness_TenStepsAreOneFrameStep : State.reset.slot = 0 ∧ State.reset.host = [] := ⟨rfl, rfl⟩
/-- A step of no cycle, the tenth cycle of a frame step, with FX15 in it, and a cycle that faults. -/
theorem witness_TimersTickOncePerFrameStep :
    (faulted.Inv ∧ faulted.NoInit ∧ (∃ t, step faulted = .next t) ∧ ¬ faulted.RunsCycle) ∧
    (State.Inv { placed 0xF015 with slot := 9, dt := 5 } ∧ State.NoInit { placed 0xF015 with slot := 9, dt := 5 } ∧
      State.RunsCycle { placed 0xF015 with slot := 9, dt := 5 } ∧
      (∃ t, step { placed 0xF015 with slot := 9, dt := 5 } = .next t ∧ t.halted = false) ∧
      dtAfter { placed 0xF015 with slot := 9, dt := 5 } = 0) ∧
    (State.Inv { placed 0 with pc := 0xFFF } ∧ State.NoInit { placed 0 with pc := 0xFFF } ∧ State.RunsCycle { placed 0 with pc := 0xFFF } ∧
      ∃ t, step { placed 0 with pc := 0xFFF } = .next t ∧ t.halted = true) :=
  ⟨⟨witness_inv_faulted, fun _ _ _ => nofun, ⟨_, rfl⟩, fun h => nomatch h.1⟩,
    ⟨⟨by decide, fits_of (by decide), by decide, ⟨by decide, by decide⟩, by decide, by decide, by decide, by decide⟩, fun _ _ _ => nofun, ⟨rfl, fun h => nomatch h⟩, ⟨_, rfl, rfl⟩, by decide⟩,
    ⟨⟨by decide, fits_of (by decide), by decide, ⟨by decide, by decide⟩, by decide, by decide, by decide, by decide⟩, fun _ _ _ => nofun, ⟨rfl, fun _ => .inl rfl⟩, _, rfl, rfl⟩⟩
theorem witness_StepKeepsInvariant : (placed 0x6012).Inv ∧ ∃ t, step (placed 0x6012) = .next t := ⟨witness_inv, _, rfl⟩

/-- A launch whose image has `n` bytes. -/
def launchOf (n : Nat) : Launch := { launch1 with image := List.replicate n 0x12 }

theorem witness_InitGivesTheAfterInitState : State.reset.slot = 0 ∧ (launchOf 3584).image.length ≤ (launchOf 3584).params.maxImage ∧
    ∃ rest, ({ State.reset with host := [.init (.image (launchOf 3584))] } : State).host = .init (.image (launchOf 3584)) :: rest :=
  ⟨rfl, by rw [launchOf, List.length_replicate]; decide, _, rfl⟩
theorem witness_FailedInitHalts : State.Inv { faulted with host := [.init .unreadable] } ∧ faulted.slot = 0 ∧
    ∃ rest, ({ faulted with host := [.init .unreadable] } : State).host = .init .unreadable :: rest :=
  ⟨⟨by decide, fits_of (by decide), by decide, ⟨by decide, by decide⟩, by decide, by decide, by decide, by decide⟩, rfl, _, rfl⟩
theorem witness_OversizeImageIsRefused : State.reset.slot = 0 ∧ (launchOf 3585).params.maxImage < (launchOf 3585).image.length ∧
    ∃ rest, ({ State.reset with host := [.init (.image (launchOf 3585))] } : State).host = .init (.image (launchOf 3585)) :: rest :=
  ⟨rfl, by rw [launchOf, List.length_replicate]; decide, _, rfl⟩
theorem witness_KeyLatchChangesOnlyBetweenFrames :
    (∃ k rest, ({ State.reset with host := [.writeKeys (List.replicate 16 true)] } : State).host = .writeKeys k :: rest) ∧
    (∃ t, step State.reset = .next t ∧ ∀ k rest, State.reset.slot = 0 → State.reset.host ≠ .writeKeys k :: rest) ∧
    (∃ t, step { State.reset with slot := 9 } = .next t) := ⟨⟨_, _, rfl⟩, ⟨_, rfl, fun _ _ _ h => nomatch h⟩, ⟨_, rfl⟩⟩
theorem witness_ResetIsTheLaunchOfTheEmptyImage : ∃ font : Vector Byte defaultParams.fontBytes, font.toList = fontTable := ⟨⟨fontTable.toArray, rfl⟩, rfl⟩

theorem witness_CallPushesOrReports : ({ State.reset with sp := 15 } : State).stack.length = defaultParams.stackDepth ∧
    ({ State.reset with sp := 15 } : State).sp < defaultParams.stackDepth ∧ defaultParams.stackDepth ≤ ({ State.reset with sp := 16 } : State).sp := by decide
theorem witness_RetPopsOrReports : 0 < ({ State.reset with sp := 16 } : State).sp ∧ ({ State.reset with sp := 16 } : State).sp ≤ 16 ∧
    State.reset.sp = 0 := by decide
theorem witness_RetReturnsAfterTheCall : State.Fits { placed 0x2300 with sp := 15 } ∧
    (placed 0x2300).params.pcWidth ≤ (placed 0x2300).params.stackEntryWidth ∧ 15 < (placed 0x2300).params.stackDepth ∧
    ∃ t, exec (.call 0x300) { placed 0x2300 with sp := 15 } = .next t ∧ t.params = (placed 0x2300).params :=
  ⟨fits_of (by decide), by decide, by decide, _, rfl, rfl⟩

/-- A8 and A9: the two values of the carry at its boundary. -/
theorem witness_AddRegistersSetsCarry : State.Fits (regs [(1, 0x7F), (2, 0x80)] .reset) ∧ State.Fits (regs [(1, 0xFF), (2, 0x01)] .reset) ∧

    (0 = if readReg (regs [(1, 0x7F), (2, 0x80)] .reset) 1 + readReg (regs [(1, 0x7F), (2, 0x80)] .reset) 2 > 255 then 1 else 0) ∧
    (1 = if readReg (regs [(1, 0xFF), (2, 0x01)] .reset) 1 + readReg (regs [(1, 0xFF), (2, 0x01)] .reset) 2 > 255 then 1 else 0) :=
  ⟨fits_of (by decide), fits_of (by decide), by decide⟩
/-- A13: equal operands give 0 on both sides. -/
theorem witness_SubtractionsSetStrictBorrow : State.Fits (regs [(1, 0x33), (2, 0x33)] .reset) ∧ State.Fits (regs [(1, 0x34), (2, 0x33)] .reset) ∧

    (0 = if readReg (regs [(1, 0x33), (2, 0x33)] .reset) 1 > readReg (regs [(1, 0x33), (2, 0x33)] .reset) 2 then 1 else 0) ∧
    (1 = if readReg (regs [(1, 0x34), (2, 0x33)] .reset) 1 > readReg (regs [(1, 0x34), (2, 0x33)] .reset) 2 then 1 else 0) :=
  ⟨fits_of (by decide), fits_of (by decide), by decide⟩
theorem witness_ShiftsSetTheLostBit : State.Fits (regs [(1, 0x81)] .reset) ∧
    1 = readReg (regs [(1, 0x81)] .reset) 1 % 2 ∧ 1 = readReg (regs [(1, 0x81)] .reset) 1 / 128 :=
  ⟨fits_of (by decide), by decide⟩
theorem witness_RegisterAccessFollowsTheTable : State.Fits (placed 0xD125) ∧
    (Instr.drw 1 2 5).wellFormed = true ∧ (∃ t, exec (.drw 1 2 5) (placed 0xD125) = .next t) ∧
    writesReg (.drw 1 2 5) 1 = false ∧ readsReg State.reset.params (.drw 1 2 5) vf = false ∧
    readsReg State.reset.params (.ldF 5) 5 = false ∧ readsReg (registerValue State.reset).params (.ldF 5) 5 = true :=
  ⟨fits_of (by decide), by decide, ⟨_, rfl⟩, by decide, by decide, by decide, by decide⟩

/-- A state whose I is `i`. -/
def indexed (i : Nat) : State := { State.reset with index := i }

theorem witness_BcdStoresExactDigits : (indexed 0xFFD).mem.wf (indexed 0xFFD).params.memSize = true ∧ InRange (indexed 0xFFD) 3 ∧ InRange (wrapping (indexed 0xFFE)) 3 :=
  ⟨rfl, .inr (.inr (by decide)), .inl rfl⟩
theorem witness_StoreAndLoadRegisters : State.Fits (indexed 0xFF0) ∧ State.Fits (wrapping (indexed 0xFFFF)) ∧
    (indexed 0xFF0).mem.wf (indexed 0xFF0).params.memSize = true ∧ InRange (indexed 0xFF0) ((15 : Reg).val + 1) ∧
    InRange (wrapping (indexed 0xFFFF)) ((15 : Reg).val + 1) :=
  ⟨fits_of (by decide), fits_of (by decide), rfl, .inr (.inr (by decide)), .inl rfl⟩
theorem witness_AccessDesignatesTheByteOfThePolicy : State.reset.params.oobPolicy = .fault ∧ (wrapping .reset).params.oobPolicy = .wrap ∧
    0xFFF < State.reset.params.memSize := by decide
theorem witness_BlockAccessOutsideMemoryFaults :
    ¬ InRange (indexed 0xFF2) 15 ∧ ¬ InRange (indexed 0xFFE) 3 ∧ ¬ InRange (indexed 0xFFF) ((1 : Reg).val + 1) ∧
    ¬ InRange (indexed 0x1000) ((0 : Reg).val + 1) := by unfold InRange; decide
theorem witness_LoadAfterStoreRestoresRegisters : State.Fits (indexed 0xFFF) ∧ (indexed 0xFFF).params.vWidth ≤ 8 ∧
    (indexed 0xFFF).mem.wf (indexed 0xFFF).params.memSize = true ∧ InRange (indexed 0xFFF) ((0 : Reg).val + 1) ∧
    exec (.storeRegs 0) (indexed 0xFFF) = .next (indexed 0xFFF) :=
  ⟨fits_of (by decide), by decide, rfl, .inr (.inr (by decide)), rfl⟩
/-- M26, and BCD-store over the next instruction's second byte alone. -/
theorem witness_FetchSeesTheStore : State.Fits (indexed 0x1F1) ∧ State.Fits (indexed 0x201) ∧

    ((indexed 0x1F1).mem.wf (indexed 0x1F1).params.memSize = true ∧ InRange (indexed 0x1F1) (storedBytes (indexed 0x1F1) (.storeRegs 15)).length ∧
    ∃ t, exec (.storeRegs 15) (indexed 0x1F1) = .next t) ∧
    (InRange (indexed 0x201) (storedBytes (indexed 0x201) (.ldB 3)).length ∧ ∃ t, exec (.ldB 3) (indexed 0x201) = .next t) :=
  ⟨fits_of (by decide), fits_of (by decide), ⟨rfl, .inr (.inr (by decide)), _, rfl⟩, .inr (.inr (by decide)), _, rfl⟩
theorem witness_OnlyStoresAndOnlyDisplay : State.reset.NoInit ∧ (∃ t, step State.reset = .next t) ∧
    (∀ x, decodeWord (nextWord State.reset) ≠ .ok (.ldB x)) ∧ (∀ x, decodeWord (nextWord State.reset) ≠ .ok (.storeRegs x)) ∧
    decodeWord (nextWord State.reset) ≠ .ok .cls ∧ (∀ x y n, decodeWord (nextWord State.reset) ≠ .ok (.drw x y n)) := by
  rw [show decodeWord (nextWord State.reset) = .error (.unknownOpcode 0) from rfl]
  exact ⟨witness_noInit, ⟨_, rfl⟩, nofun, nofun, nofun, nofun⟩

/-- D10 and D2: a draw with a collision and one without; D15: the last byte of memory; D7: no row. -/
theorem witness_DrawFlipsTheSpriteAndFlagsCollision : State.Fits (indexed 0xFFF) ∧ State.Fits (indexed 0xFFFF) ∧

    State.FbFits (indexed 0xFFF) ∧ InRange (indexed 0xFFF) 1 ∧ InRange (indexed 0xFFFF) 0 ∧
    (SpriteBit State.reset 0 1 1 0 0 = true ∧ lit (pixels [(0, 0)] .reset) 0 0 = true) ∧
    SpriteBit State.reset 0 1 1 4 0 = false :=
  ⟨fits_of (by decide), fits_of (by decide), ⟨by decide, by decide⟩, .inr (.inr (by decide)), .inr (.inl rfl), by decide, by decide⟩
/-- At another register than VF, and at VF where the first draw, of no row, leaves it. -/
theorem witness_DrawTwice : State.Fits (indexed 0) ∧
    State.FbFits (indexed 0) ∧ (15 : Nat) < 16 ∧ InRange (indexed 0) 15 ∧ (14 : Reg) ≠ vf ∧
    (∃ t u, exec (.drw 14 0 15) (indexed 0) = .next t ∧ exec (.drw 14 0 15) t = .next u) ∧
    ∃ t, exec (.drw vf 0 0) (indexed 0) = .next t ∧ spriteCol t vf = spriteCol (indexed 0) vf :=
  ⟨fits_of (by decide), ⟨by decide, by decide⟩, by decide, .inr (.inr (by decide)), by decide, ⟨_, _, rfl, rfl⟩, _, rfl, by decide⟩

/-- LoadsWriteTheirRegister, AddImmediateWrapsWithoutFlag, LogicWritesBitByBit and RandomWritesTheMaskedDraw. -/
theorem witness_registers : State.Fits (regs [(1, 0xFF), (15, 0x77)] .reset) := fits_of (by decide)

theorem witness_KeySkipsFollowTheLatch : readReg (regs [(1, 0xF)] .reset) 1 < State.reset.params.numKeys ∧
    State.reset.params.numKeys ≤ readReg (regs [(1, 0x10)] .reset) 1 := by decide
theorem witness_KeyWaitCompletesOnAHeldKey : State.Fits (holding [15] .reset) ∧
    (holding [15] .reset).key.length = (holding [15] .reset).params.numKeys ∧
    (15 < State.reset.params.numKeys ∧ keyHeld (holding [15] .reset) 15 = true ∧ ∀ j < 15, keyHeld (holding [15] .reset) j = false) ∧
    (keyHeld (holding [0, 9] .reset) 0 = true ∧ ∀ j < 0, keyHeld (holding [0, 9] .reset) j = false) ∧
    ∀ k < State.reset.params.numKeys, keyHeld State.reset k = false :=
  ⟨fits_of (by decide), by decide⟩
theorem witness_KeyWaitStaysInPlace : State.Fits (placed 0xF20A) ∧
    (placed 0xF20A).RunsCycle ∧ (placed 0xF20A).pc + 1 < (placed 0xF20A).params.memSize ∧
    decodeWord (nextWord (placed 0xF20A)) = .ok (.ldVxK 2) ∧ (placed 0xF20A).key.length = (placed 0xF20A).params.numKeys ∧
    (∀ k < (placed 0xF20A).params.numKeys, keyHeld (placed 0xF20A) k = false) ∧ ∃ t, step (placed 0xF20A) = .next t :=
  ⟨fits_of (by decide), ⟨rfl, fun _ => .inl rfl⟩, by decide, rfl, by decide, by decide, _, rfl⟩
theorem witness_frames : (∀ nnn, Instr.cls ≠ .call nnn) ∧ Instr.cls ≠ .ret ∧ (∀ nnn, Instr.cls ≠ .ldI nnn) ∧ (∀ x, Instr.cls ≠ .addI x) ∧
    (∀ x, Instr.cls ≠ .ldF x) ∧ ∃ t, exec .cls State.reset = .next t := ⟨nofun, nofun, nofun, nofun, nofun, _, rfl⟩
theorem witness_StepAppendsAtMostTwoRecords : State.reset.NoInit ∧ (∃ t, step State.reset = .next t) ∧
    ({ State.reset with pc := 0xFFF } : State).RunsCycle ∧ State.reset.params.memSize ≤ ({ State.reset with pc := 0xFFF } : State).pc + 1 :=
  ⟨witness_noInit, ⟨_, rfl⟩, ⟨rfl, fun _ => .inl rfl⟩, by decide⟩
theorem witness_FaultHaltsUntilInit : faulted.Inv ∧ (∃ r, faulted.fault = some r) ∧ faulted.NoInit ∧ ∃ t, step faulted = .next t :=
  ⟨witness_inv_faulted, ⟨_, rfl⟩, fun _ _ _ => nofun, _, rfl⟩

theorem witness_PcNeverPassesItsBound : State.Fits { State.reset with pc := 0x10FE } ∧ State.NoInit { State.reset with pc := 0x10FE } ∧
    State.reset.params.oobPolicy = .fault ∧ State.reset.params.memSize ≤ 4096 ∧ State.reset.params.pcTop ≤ 0xFFE ∧
    State.reset.params.vWidth ≤ 8 ∧ (∀ k, stackSlot State.reset k ≤ 0xFFF) ∧ ∃ t, step { State.reset with pc := 0x10FE } = .next t := by
  refine ⟨fits_of (by decide), fun _ _ _ => nofun, rfl, by decide, by decide, by decide, fun k => ?_, _, rfl⟩
  change (List.replicate 16 0).getD k 0 ≤ 0xFFF
  rw [List.getD_eq_getElem?_getD, List.getElem?_replicate]
  split <;> decide
theorem witness_SelfJumpChangesNoRegisterMemoryPixelOrPc : State.Fits (placed 0x1200) ∧
    (placed 0x1200).RunsCycle ∧
    (placed 0x1200).pc + 1 < (placed 0x1200).params.memSize ∧
    decodeWord (nextWord (placed 0x1200)) = .ok (.jp 0x200) ∧ (0x200 : BitVec 12).toNat = (placed 0x1200).pc :=
  ⟨fits_of (by decide), ⟨rfl, fun _ => .inl rfl⟩, by decide, rfl, by decide⟩

end Sys2Proof.Tests
end

section
/-! Proofs about the register file and the logic rows (42_alu.md R123 to R125). -/

namespace Sys2Proof.Machine

/-- The register file after one write, entry by entry, where it has every register a 4-bit field names. -/
theorem writeReg_v_getElem? {s : State} (h : s.v.length = s.params.numV) (x : Reg) (n k : Nat) :
    (writeReg x n s).v[k]? = if k = x.val then some (n % 2 ^ s.params.vWidth) else s.v[k]? := by
  have hx : x.val < s.v.length := by have := s.params.numV_ge; omega
  rw [writeReg_v, List.getElem?_set]
  by_cases hk : k = x.val
  · subst hk
    rw [if_pos rfl, if_pos rfl, if_pos hx]
  · rw [if_neg (Ne.symm hk), if_neg hk]

/-- An instruction whose whole effect is one register write writes the value itself where the value fits the register. -/
theorem writesReg_of_exec_writeReg {i : Instr} {s : State} {x : Reg} {n : Nat} (hfits : s.Fits)
    (hexec : exec i s = .next (writeReg x n s)) (hn : n < 2 ^ s.params.vWidth) : WritesReg i s x n := by
  refine ⟨writeReg x n s, hexec, rfl, fun k => ?_⟩
  rw [writeReg_v_getElem? hfits.v_length, Nat.mod_eq_of_lt hn]

/-- Settles O27: each row is one register write, of a value that fits since no bit operation sets a bit above its operands' width. -/
theorem logicWritesBitByBit : Obligations.LogicWritesBitByBit := by
  intro s x y hfits
  have hx : readReg s x < 2 ^ s.params.vWidth := readReg_lt hfits.v_lt x
  have hy : readReg s y < 2 ^ s.params.vWidth := readReg_lt hfits.v_lt y
  refine ⟨?or, ?and, ?xor⟩
  case or => exact writesReg_of_exec_writeReg hfits rfl (Nat.or_lt_two_pow hx hy)
  case and => exact writesReg_of_exec_writeReg hfits rfl (Nat.and_lt_two_pow _ hy)
  case xor => exact writesReg_of_exec_writeReg hfits rfl (Nat.xor_lt_two_pow hx hy)

end Sys2Proof.Machine
end

section
/-! Proofs about the display rows (44_display.md R171, R173). -/

namespace Sys2Proof.Machine

/-- The whole effect of CLS (R173): the framebuffer becomes `clear()`'s blank one of the launch's size (R171). -/
theorem exec_cls (s : State) : exec .cls s = .next (writeFb (blankFb s.params.fbWidth s.params.fbHeight) s) := rfl

/-- Settles O43: the blank framebuffer CLS writes has the screen's size and reads as unset at every place, inside the screen or not. -/
theorem clearUnsetsEveryPixel : Obligations.ClearUnsetsEveryPixel := by
  intro s
  have hsize : (writeFb (blankFb s.params.fbWidth s.params.fbHeight) s).FbFits := (fbFits_iff _).mpr (blankFb_sized _ _)
  exact ⟨_, exec_cls s, rfl, hsize, pixel_blankFb _ _⟩

end Sys2Proof.Machine
end

section
/-! Proofs about the opcode map: decoder, encoder and assembler agree (30_encoding.md R65 to R73). -/

namespace Sys2Proof

/-! ### A word is made of its fields -/

theorem formNNN_eq {w : Word} {c : BitVec 4} (hc : w.toNat / 4096 = c.toNat) : formNNN c (fieldNNN w) = w := by
  apply BitVec.eq_of_toNat_eq
  rw [formNNN_toNat, fieldNNN_toNat]; omega

theorem formXNN_eq {w : Word} {c : BitVec 4} {nn : Byte} (hc : w.toNat / 4096 = c.toNat)
    (hn : (fieldNN w).toNat = nn.toNat) : formXNN c (fieldX w) nn = w := by
  apply BitVec.eq_of_toNat_eq
  rw [fieldNN_toNat] at hn
  rw [formXNN_toNat, fieldX_val]; omega

theorem formXYN_eq {w : Word} {c n : BitVec 4} (hc : w.toNat / 4096 = c.toNat)
    (hn : (fieldN w).toNat = n.toNat) : formXYN c (fieldX w) (fieldY w) n = w := by
  apply BitVec.eq_of_toNat_eq
  rw [fieldN_toNat] at hn
  rw [formXYN_toNat, fieldX_val, fieldY_val]; omega

/-! ### Decoder and encoder -/

/-- The word of a well-formed instruction selects it (R68). -/
theorem decodeWord_encode (i : Instr) (h : i.wellFormed = true) : decodeWord (encode i) = .ok i := by
  cases i with
  | cls => rfl
  | ret => rfl
  | drw x y n =>
    have hn : n < 16 := by simpa [Instr.wellFormed] using h
    simp [encode, decodeWord, Nat.mod_eq_of_lt hn]
  | _ => simp [encode, decodeWord, decodeClass8, decodeClassE, decodeClassF]

theorem encode_of_decodeClass8 {w : Word} {i : Instr} (hc : w.toNat / 4096 = 8) (h : decodeClass8 w = .ok i) :
    i.wellFormed = true ∧ encode i = w := by
  unfold decodeClass8 at h
  split at h <;> cases h <;> exact ⟨rfl, formXYN_eq hc ‹_›⟩

theorem encode_of_decodeClassE {w : Word} {i : Instr} (hc : w.toNat / 4096 = 14) (h : decodeClassE w = .ok i) :
    i.wellFormed = true ∧ encode i = w := by
  unfold decodeClassE at h
  split at h <;> cases h <;> exact ⟨rfl, formXNN_eq hc ‹_›⟩

theorem encode_of_decodeClassF {w : Word} {i : Instr} (hc : w.toNat / 4096 = 15) (h : decodeClassF w = .ok i) :
    i.wellFormed = true ∧ encode i = w := by
  unfold decodeClassF at h
  split at h <;> cases h <;> exact ⟨rfl, formXNN_eq hc ‹_›⟩

/-- The instruction a word selects is well-formed, and has that word: no bit is ignored (R68). -/
theorem encode_of_decodeWord {w : Word} {i : Instr} (h : decodeWord w = .ok i) : i.wellFormed = true ∧ encode i = w := by
  have hlt := w.isLt
  unfold decodeWord at h
  simp only [fieldClass_toNat] at h
  split at h <;> rename_i hc
  case h_1 =>
    split_ifs at h with h0 h1 <;> cases h
    · exact ⟨rfl, h0.symm⟩
    · exact ⟨rfl, h1.symm⟩
  case h_6 | h_10 =>
    split_ifs at h with hn
    cases h
    exact ⟨rfl, formXYN_eq hc (congrArg BitVec.toNat hn)⟩
  case h_9 => exact encode_of_decodeClass8 hc h
  case h_14 =>
    cases h
    exact ⟨decide_eq_true (fieldN w).isLt, by rw [encode, BitVec.ofNat_toNat, BitVec.setWidth_eq]; exact formXYN_eq hc rfl⟩
  case h_15 => exact encode_of_decodeClassE hc h
  case h_16 =>
    have h15 : w.toNat / 4096 = 15 := by simp only [imp_false] at *; omega
    exact encode_of_decodeClassF h15 h
  case h_2 | h_3 | h_11 | h_12 => cases h; exact ⟨rfl, formNNN_eq hc⟩
  all_goals cases h; exact ⟨rfl, formXNN_eq hc rfl⟩

theorem decodeWord_eq_ok_iff {w : Word} {i : Instr} : decodeWord w = .ok i ↔ i.wellFormed = true ∧ encode i = w :=
  ⟨encode_of_decodeWord, fun ⟨hwf, hw⟩ => hw ▸ decodeWord_encode i hwf⟩

/-- Settles O1: the two bytes of the instruction's word are fetched back as the word, which selects the instruction. -/
theorem decodeOfEncodeIsTheInstruction : Obligations.DecodeOfEncodeIsTheInstruction := by
  intro i rest hwf
  have hword : decodeWord (wordOfBytes ((encode i).extractLsb' 8 8) ((encode i).extractLsb' 0 8)) = .ok i := by
    rw [wordOfBytes_bytesOfWord, decodeWord_encode i hwf]
  simp only [encodeBytes, bytesOfWord, List.cons_append, List.nil_append, decode, hword]

/-- Settles O2: the decoder inverts the encoder, and accepts no word but an instruction's. -/
theorem wordSelectsItsRowExactly : Obligations.WordSelectsItsRowExactly := fun _ _ => decodeWord_eq_ok_iff

/-- Settles O4: each word is decoded by evaluation. -/
theorem writtenWordsDecode : Obligations.WrittenWordsDecode := by
  unfold Obligations.WrittenWordsDecode
  exact ⟨rfl, rfl, rfl, rfl, rfl, rfl, rfl, rfl, rfl, rfl, rfl⟩

/-! ### The unknown words -/

theorem decodeClass8_eq_error_iff {w : Word} :
    decodeClass8 w = .error (.unknownOpcode w) ↔ w.toNat % 16 ∈ [0x8, 0x9, 0xA, 0xB, 0xC, 0xD, 0xF] := by
  have hlt : w.toNat % 16 < 16 := Nat.mod_lt _ (by decide)
  unfold decodeClass8
  rw [fieldN_toNat]
  generalize w.toNat % 16 = n at *
  interval_cases n <;> simp

theorem decodeClassE_eq_error_iff {w : Word} :
    decodeClassE w = .error (.unknownOpcode w) ↔ w.toNat % 256 ∉ [0x9E, 0xA1] := by
  unfold decodeClassE
  rw [fieldNN_toNat]
  split <;> simp_all

theorem decodeClassF_eq_error_iff {w : Word} : decodeClassF w = .error (.unknownOpcode w) ↔
    w.toNat % 256 ∉ [0x07, 0x0A, 0x15, 0x18, 0x1E, 0x29, 0x33, 0x55, 0x65] := by
  unfold decodeClassF
  rw [fieldNN_toNat]
  split <;> simp_all

/-- A row of classes 5 and 9 needs the constant nibble 0. -/
theorem fieldN_eq_zero_iff {w : Word} : fieldN w = 0 ↔ w.toNat % 16 = 0 := by
  rw [← BitVec.toNat_inj, fieldN_toNat]; rfl

/-- Settles O3: the word's class picks one line of the list, and the class's own sub-dispatch is that line. -/
theorem unknownWordsAreTheListedSpace : Obligations.UnknownWordsAreTheListedSpace := by
  intro w
  have hlt := w.isLt
  unfold decodeWord
  simp only [fieldClass_toNat, fieldN_eq_zero_iff, ← BitVec.toNat_inj (x := w), BitVec.toNat_ofNat]
  split <;> rename_i hc
  case h_1 => rw [hc]; split_ifs <;> simp_all
  case h_6 | h_10 => rw [hc]; split_ifs <;> simp_all
  case h_9 => rw [hc, decodeClass8_eq_error_iff]; simp
  case h_15 => rw [hc, decodeClassE_eq_error_iff]; simp
  case h_16 =>
    have h15 : w.toNat / 4096 = 15 := by simp only [imp_false] at *; omega
    rw [h15, decodeClassF_eq_error_iff]; simp
  all_goals rw [hc]; simp

end Sys2Proof

namespace Sys2Proof.Machine

/-! ### The assembler form -/

@[simp] theorem fitNN_toNat (nn : Byte) : fitNN nn.toNat = some nn := by
  rw [fitNN, if_pos nn.isLt, BitVec.ofNat_toNat, BitVec.setWidth_eq]

@[simp] theorem fitNNN_toNat (nnn : BitVec 12) : fitNNN nnn.toNat = some nnn := by
  rw [fitNNN, if_pos nnn.isLt, BitVec.ofNat_toNat, BitVec.setWidth_eq]

/-- An instruction's line assembles to its bytes (R67, R72). -/
theorem assembleLine_instrLine (i : Instr) (h : i.wellFormed = true) : assembleLine (instrLine i) = some (encodeBytes i) := by
  cases i with
  | drw x y n =>
    have hn : n < 16 := by simpa [Instr.wellFormed] using h
    simp [assembleLine, instrLine, assembleInstr, hn]
  | _ => simp [assembleLine, instrLine, assembleInstr, assembleRegReg, assembleRegNum, assembleLoad]

/-- Settles O5: a word that selects an instruction is the instruction's own, whose line assembles back; any other is placed by `.word`. -/
theorem disassemblyAssemblesBack : Obligations.DisassemblyAssemblesBack := by
  intro w
  unfold disassemble
  split <;> rename_i hd
  · obtain ⟨hwf, hw⟩ := encode_of_decodeWord hd
    rw [assembleLine_instrLine _ hwf, encodeBytes, hw]
  · simp [assembleLine, w.isLt]

end Sys2Proof.Machine
end

section
/-! What one instruction can do to the state, said once, and the frame facts that follow from it. -/

namespace Sys2Proof.Machine

/-- `Effect s i t`: `t` is what instruction `i` can leave of `s`, one constructor for each shape of state change that an arm of `exec`
has. A constructor keeps of its instruction what the later proofs ask for: the registers it writes, the memory it reaches, its guard. -/
inductive Effect (s : State) : Instr → State → Prop
  | setReg {i : Instr} {x : Reg} (n : Nat) (hw : writesReg i x = true) : Effect s i (writeReg x n s)
  | setFlagAndReg {i : Instr} {x : Reg} (f r : State → Nat) (hx : writesReg i x = true) (hf : writesReg i vf = true) :
      Effect s i (flagThenResult x f r s)
  | random (x : Reg) (nn : Byte) (n : Nat) : Effect s (.rnd x nn) (writeReg x n (takeDraw s))
  | loadBlock (x : Reg) (bs : List Byte) (hlen : bs.length = x.val + 1) : Effect s (.loadRegs x) (writeRegsFrom 0 bs s)
  | draw (x y : Reg) (n : Nat) : Effect s (.drw x y n)
      (writeReg vf (flagValue (drawResult s x y n).2) (writeFb (drawResult s x y n).1 s))
  | clear : Effect s .cls (writeFb (blankFb s.params.fbWidth s.params.fbHeight) s)
  | setIndex {i : Instr} (n : Nat) (hi : (∃ nnn, i = .ldI nnn) ∨ (∃ x, i = .addI x) ∨ ∃ x, i = .ldF x) : Effect s i (writeIndex n s)
  | skip {i : Instr} (c : Bool) : Effect s i (skipIf c s)
  | jump (nnn : BitVec 12) : Effect s (.jp nnn) (writePc nnn.toNat s)
  | jumpOffset (nnn : BitVec 12) : Effect s (.jpV0 nnn) (writePc (nnn.toNat + readReg s 0) s)
  | call (nnn : BitVec 12) (hroom : s.sp < s.params.stackDepth) : Effect s (.call nnn) (writePc nnn.toNat (push s.pc s))
  | ret (hused : 0 < s.sp) : Effect s .ret (popPc s)
  | keyWait (x : Reg) : Effect s (.ldVxK x) (writePc s.fpc s)
  | setDelay (x : Reg) : Effect s (.ldDTVx x) (writeDt (readReg s x) s)
  | setSound (x : Reg) : Effect s (.ldSTVx x) (writeSt (readReg s x) s)
  | storeBlock {i : Instr} (bs : List Byte) (hi : (∃ x, i = .ldB x) ∨ ∃ x, i = .storeRegs x)
      (hr : ∀ k < bs.length, resolve s (s.index + k) < s.params.memSize) : Effect s i (storeBytes s.index bs s)
  | report {i : Instr} (c : Condition) (w : Word) (info : Option Nat) : Effect s i (report c w info s)
  | fault {i : Instr} (w : Word) (a : Nat) : Effect s i (raiseFault (some w) a s)

theorem length_loadBytes (s : State) (base len : Nat) : (loadBytes s base len).length = len := by simp [loadBytes]

theorem length_regsUpTo_le (s : State) (x : Reg) : (regsUpTo s x).length ≤ x.val + 1 := by
  rw [regsUpTo, List.length_map, List.length_take]; omega

/-- Every instruction completes, with one of the effects. -/
theorem exec_effect (i : Instr) (s : State) : ∃ t, exec i s = .next t ∧ Effect s i t := by
  cases i with
  | cls => exact ⟨_, rfl, .clear⟩
  | ret =>
    refine ⟨_, rfl, ?_⟩
    split_ifs with h0
    · exact .report _ _ _
    · exact .ret (by omega)
  | jp nnn => exact ⟨_, rfl, .jump nnn⟩
  | call nnn =>
    refine ⟨_, rfl, ?_⟩
    split_ifs with hroom
    · exact .call nnn hroom
    · exact .report _ _ _
  | seImm | sneImm | seReg | sneReg => exact ⟨_, rfl, .skip _⟩
  | ldImm | addImm | ldReg | orReg | andReg | xorReg | ldVxDT => exact ⟨_, rfl, .setReg _ (decide_eq_true rfl)⟩
  | addReg | sub | shr | subn | shl => exact ⟨_, rfl, .setFlagAndReg _ _ (by simp [writesReg]) (by simp [writesReg])⟩
  | ldI nnn => exact ⟨_, rfl, .setIndex _ (.inl ⟨nnn, rfl⟩)⟩
  | addI x => exact ⟨_, rfl, .setIndex _ (.inr (.inl ⟨x, rfl⟩))⟩
  | ldF x => exact ⟨_, rfl, .setIndex _ (.inr (.inr ⟨x, rfl⟩))⟩
  | jpV0 nnn => exact ⟨_, rfl, .jumpOffset nnn⟩
  | rnd x nn => exact ⟨_, rfl, .random x nn _⟩
  | drw x y n =>
    refine ⟨_, rfl, ?_⟩
    obtain ⟨-, h⟩ | ⟨a, -, h⟩ := checkRange_cases (indexAddr s) n (encode (.drw x y n))
      (fun t => writeReg vf (flagValue (drawResult t x y n).2) (writeFb (drawResult t x y n).1 t)) s <;> rw [h]
    · exact .draw x y n
    · exact .fault _ a
  | skp | sknp =>
    refine ⟨_, rfl, ?_⟩
    split
    · exact .skip _
    · exact .report _ _ _
  | ldVxK x =>
    refine ⟨_, rfl, ?_⟩
    split
    · exact .setReg _ (decide_eq_true rfl)
    · exact .keyWait x
  | ldDTVx x => exact ⟨_, rfl, .setDelay x⟩
  | ldSTVx x => exact ⟨_, rfl, .setSound x⟩
  | ldB x =>
    refine ⟨_, rfl, ?_⟩
    obtain ⟨hr, h⟩ | ⟨a, -, h⟩ := checkRange_cases (indexAddr s) 3 (encode (.ldB x))
      (storeBytes (indexAddr s) (bcdDigits (readReg s x))) s <;> rw [h]
    · exact .storeBlock _ (.inl ⟨x, rfl⟩) fun k hk => resolve_lt hr hk
    · exact .fault _ a
  | storeRegs x =>
    refine ⟨_, rfl, ?_⟩
    obtain ⟨hr, h⟩ | ⟨a, -, h⟩ := checkRange_cases (indexAddr s) (x.val + 1) (encode (.storeRegs x))
      (storeBytes (indexAddr s) (regsUpTo s x)) s <;> rw [h]
    · exact .storeBlock _ (.inr ⟨x, rfl⟩) fun k hk => resolve_lt hr (Nat.lt_of_lt_of_le hk (length_regsUpTo_le s x))
    · exact .fault _ a
  | loadRegs x =>
    refine ⟨_, rfl, ?_⟩
    obtain ⟨-, h⟩ | ⟨a, -, h⟩ := checkRange_cases (indexAddr s) (x.val + 1) (encode (.loadRegs x))
      (writeRegsFrom 0 (loadBytes s (indexAddr s) (x.val + 1))) s <;> rw [h]
    · exact .loadBlock x _ (length_loadBytes _ _ _)
    · exact .fault _ a

theorem effect_of_exec {i : Instr} {s t : State} (h : exec i s = .next t) : Effect s i t := by
  obtain ⟨u, hu, heff⟩ := exec_effect i s
  cases hu.symm.trans h
  exact heff

/-! ### Frame -/

namespace Effect

variable {i : Instr} {s t : State}

theorem params (h : Effect s i t) : t.params = s.params := by cases h <;> simp
theorem key (h : Effect s i t) : t.key = s.key := by cases h <;> simp
theorem host (h : Effect s i t) : t.host = s.host := by cases h <;> simp
theorem slot (h : Effect s i t) : t.slot = s.slot := by cases h <;> simp
theorem failedInits (h : Effect s i t) : t.failedInits = s.failedInits := by cases h <;> simp
theorem fpc (h : Effect s i t) : t.fpc = s.fpc := by cases h <;> simp

/-- Only CXNN takes a draw (42_alu.md R134). -/
theorem draws (h : Effect s i t) (hi : ∀ x nn, i ≠ .rnd x nn) : t.draws = s.draws := by
  cases h
  case random x nn n => exact absurd rfl (hi x nn)
  all_goals simp

/-- Only ANNN, FX1E and FX29 write I (10_state.md R24). -/
theorem index (h : Effect s i t) (h1 : ∀ nnn, i ≠ .ldI nnn) (h2 : ∀ x, i ≠ .addI x) (h3 : ∀ x, i ≠ .ldF x) :
    t.index = s.index := by
  cases h
  case setIndex n hi =>
    obtain ⟨nnn, rfl⟩ | ⟨x, rfl⟩ | ⟨x, rfl⟩ := hi
    · exact absurd rfl (h1 nnn)
    · exact absurd rfl (h2 x)
    · exact absurd rfl (h3 x)
  all_goals simp

/-- Only FX33 and FX55 write memory (20_memory.md R64). -/
theorem mem (h : Effect s i t) (h1 : ∀ x, i ≠ .ldB x) (h2 : ∀ x, i ≠ .storeRegs x) : t.mem = s.mem := by
  cases h
  case storeBlock bs hr hi =>
    obtain ⟨x, rfl⟩ | ⟨x, rfl⟩ := hi
    · exact absurd rfl (h1 x)
    · exact absurd rfl (h2 x)
  all_goals simp

/-- Only 00E0 and DXYN write the framebuffer (44_display.md R178). -/
theorem fb (h : Effect s i t) (h1 : i ≠ .cls) (h2 : ∀ x y n, i ≠ .drw x y n) : t.fb = s.fb := by
  cases h
  case clear => exact absurd rfl h1
  case draw x y n => exact absurd rfl (h2 x y n)
  all_goals simp

/-- Only FX15 writes DT (45_timers_input.md R191). -/
theorem dt (h : Effect s i t) (hi : ∀ x, i ≠ .ldDTVx x) : t.dt = s.dt := by
  cases h
  case setDelay x => exact absurd rfl (hi x)
  all_goals simp

/-- Only FX18 writes ST (R192). -/
theorem st (h : Effect s i t) (hi : ∀ x, i ≠ .ldSTVx x) : t.st = s.st := by
  cases h
  case setSound x => exact absurd rfl (hi x)
  all_goals simp

/-- Only a fault sets `halted`, and it leaves a record (60_exceptions.md R214). -/
theorem halted (h : Effect s i t) : t.halted = s.halted ∧ t.fault = s.fault ∨ t.halted = true ∧ t.fault ≠ none := by
  cases h
  case fault w a =>
    right
    cases hf : s.fault <;> simp [hf]
  all_goals left; simp

end Effect

/-- Settles O53: by the frame of each effect. -/
theorem onlyIndexWritersChangeI : Obligations.OnlyIndexWritersChangeI :=
  fun _ _ _ h1 h2 h3 h => (effect_of_exec h).index h1 h2 h3

/-- Settles O58: each part is a frame fact of the instruction's effect. -/
theorem instructionsLeaveTheHostsState : Obligations.InstructionsLeaveTheHostsState := by
  intro i s t h
  have heff := effect_of_exec h
  refine ⟨heff.key, heff.params, heff.host, heff.slot, heff.failedInits, heff.fpc, heff.draws, fun ht => ?_⟩
  obtain ⟨hh, -⟩ | ⟨-, hf⟩ := heff.halted
  · exact .inl (hh ▸ ht)
  · exact .inr hf

end Sys2Proof.Machine
end

section
/-! What an instruction does not read: two states that differ only there are taken to two states that differ only there. -/

namespace Sys2Proof.Machine

/-! ### Reads depend on the fields they read -/

section Congr

variable {s s' : State}

theorem resolve_congr (hp : s'.params = s.params) (a : Nat) : resolve s' a = resolve s a := by
  unfold resolve; rw [hp]

theorem firstOutside_congr (hp : s'.params = s.params) (base len : Nat) : firstOutside s' base len = firstOutside s base len := by
  unfold firstOutside; rw [hp]

theorem loadByte_congr (hp : s'.params = s.params) (hm : s'.mem = s.mem) (a : Nat) : loadByte s' a = loadByte s a := by
  rw [loadByte, loadByte, resolve_congr hp, hm]

theorem loadBytes_congr (hp : s'.params = s.params) (hm : s'.mem = s.mem) (base len : Nat) :
    loadBytes s' base len = loadBytes s base len := by
  simp only [loadBytes, loadByte_congr hp hm]

theorem readReg_congr {r : Reg} (h : s'.v[r.val]? = s.v[r.val]?) : readReg s' r = readReg s r := by
  rw [readReg, readReg, List.getD_eq_getElem?_getD, List.getD_eq_getElem?_getD, h]

theorem regsUpTo_congr {x : Reg} (h : ∀ r ≤ x, s'.v[r.val]? = s.v[r.val]?) : regsUpTo s' x = regsUpTo s x := by
  have htake : s'.v.take (x.val + 1) = s.v.take (x.val + 1) := by
    refine List.ext_getElem? fun k => ?_
    by_cases hk : k < x.val + 1
    · rw [List.getElem?_take_of_lt hk, List.getElem?_take_of_lt hk]
      exact h ⟨k, by omega⟩ (Fin.le_def.2 (Nat.lt_succ_iff.1 hk))
    · rw [List.getElem?_take_eq_none (by omega), List.getElem?_take_eq_none (by omega)]
  rw [regsUpTo, regsUpTo, htake]

theorem drawResult_congr {x y : Reg} (hp : s'.params = s.params) (hm : s'.mem = s.mem) (hfb : s'.fb = s.fb)
    (hi : s'.index = s.index) (hx : readReg s' x = readReg s x) (hy : readReg s' y = readReg s y) (n : Nat) :
    drawResult s' x y n = drawResult s x y n := by
  simp only [drawResult, drawCol, drawRow, indexAddr, hp, hfb, hi, hx, hy, loadBytes_congr hp hm]

end Congr

/-! ### Relations an instruction cannot tell apart -/

/-- `R` relates states that differ only in what no instruction but CALL, RET and FX18 reads or overwrites as a whole, and in the
registers not `seen`: related states agree on every field an instruction reads, and the operations on the state keep `R`. -/
structure Blind (R : State → State → Prop) (seen : Reg → Prop) : Prop where
  params {s s'} : R s s' → s'.params = s.params
  v {s s'} : R s s' → ∀ r, seen r → s'.v[r.val]? = s.v[r.val]?
  index {s s'} : R s s' → s'.index = s.index
  pc {s s'} : R s s' → s'.pc = s.pc
  dt {s s'} : R s s' → s'.dt = s.dt
  mem {s s'} : R s s' → s'.mem = s.mem
  fb {s s'} : R s s' → s'.fb = s.fb
  key {s s'} : R s s' → s'.key = s.key
  fpc {s s'} : R s s' → s'.fpc = s.fpc
  draws {s s'} : R s s' → s'.draws = s.draws
  setV {s s'} : R s s' → ∀ k n, R { s with v := s.v.set k n } { s' with v := s'.v.set k n }
  writeIndex {s s'} : R s s' → ∀ n, R (writeIndex n s) (writeIndex n s')
  writePc {s s'} : R s s' → ∀ n, R (writePc n s) (writePc n s')
  writeDt {s s'} : R s s' → ∀ n, R (writeDt n s) (writeDt n s')
  writeFb {s s'} : R s s' → ∀ f, R (writeFb f s) (writeFb f s')
  storeByte {s s'} : R s s' → ∀ a b, R (storeByte a b s) (storeByte a b s')
  takeDraw {s s'} : R s s' → R (takeDraw s) (takeDraw s')
  report {s s'} : R s s' → ∀ c w info, R (report c w info s) (report c w info s')
  raiseFault {s s'} : R s s' → ∀ w a, R (raiseFault w a s) (raiseFault w a s')

/-- `R` relates states with the same count of the return stack, and pushing and popping keep it. -/
structure BlindStack (R : State → State → Prop) : Prop where
  sp {s s'} : R s s' → s'.sp = s.sp
  push {s s'} : R s s' → ∀ n, R (push n s) (push n s')
  popPc {s s'} : R s s' → R (popPc s) (popPc s')

/-- `i` takes `s` and `s'` to related states. -/
def Agree (R : State → State → Prop) (i : Instr) (s s' : State) : Prop :=
  ∃ t t', exec i s = .next t ∧ exec i s' = .next t' ∧ R t t'

namespace Blind

variable {R : State → State → Prop} {seen : Reg → Prop} {s s' : State}

theorem readReg (hR : Blind R seen) (h : R s s') {r : Reg} (hr : seen r) : readReg s' r = readReg s r := readReg_congr (hR.v h r hr)

theorem writeReg (hR : Blind R seen) (h : R s s') (x : Reg) (n : Nat) : R (writeReg x n s) (writeReg x n s') := by
  have hmod : n % 2 ^ s'.params.vWidth = n % 2 ^ s.params.vWidth := by rw [hR.params h]
  unfold Machine.writeReg
  rw [hmod]
  exact hR.setV h x.val _

theorem skipIf (hR : Blind R seen) (h : R s s') (c : Bool) : R (skipIf c s) (skipIf c s') := by
  cases c with
  | false => exact h
  | true =>
    have hpc := hR.writePc h (s.pc + 2)
    unfold Machine.skipIf
    rwa [if_pos rfl, if_pos rfl, hR.pc h]

theorem storeBytes (hR : Blind R seen) (h : R s s') (a : Nat) (bs : List Byte) : R (storeBytes a bs s) (storeBytes a bs s') := by
  induction bs generalizing a s s' with
  | nil => exact h
  | cons b bs ih => exact ih (hR.storeByte h a b) (a + 1)

theorem writeRegsFrom (hR : Blind R seen) (h : R s s') (k : Nat) (bs : List Byte) :
    R (writeRegsFrom k bs s) (writeRegsFrom k bs s') := by
  induction bs generalizing k s s' with
  | nil => exact h
  | cons b bs ih =>
    have hmod : b.toNat % 2 ^ s'.params.vWidth = b.toNat % 2 ^ s.params.vWidth := by rw [hR.params h]
    rw [Machine.writeRegsFrom, Machine.writeRegsFrom, hmod]
    exact ih (hR.setV h k _) (k + 1)

theorem flagThenResult (hR : Blind R seen) (h : R s s') (x : Reg) {f r : State → Nat} (hf : ∀ {t t'}, R t t' → f t' = f t)
    (hr : ∀ {t t'}, R t t' → r t' = r t) : R (flagThenResult x f r s) (flagThenResult x f r s') := by
  have hvf := hR.writeReg h vf (f s)
  unfold Machine.flagThenResult
  rw [hR.params h, hf h]
  split
  · rw [hr hvf]; exact hR.writeReg hvf x _
  · rw [hr h]; exact hR.writeReg hvf x _

theorem checkRange (hR : Blind R seen) (h : R s s') (base len : Nat) (w : Word) {body body' : State → State}
    (hbody : R (body s) (body' s')) : R (checkRange base len w body s) (checkRange base len w body' s') := by
  unfold Machine.checkRange
  rw [firstOutside_congr (hR.params h)]
  split
  · exact hR.raiseFault h _ _
  · exact hbody

/-- CALL and RET, where `R` relates states with the same count. -/
theorem agree_stack (hR : Blind R seen) (hS : BlindStack R) (h : R s s') {i : Instr} (hi : (∃ nnn, i = .call nnn) ∨ i = .ret) :
    Agree R i s s' := by
  obtain ⟨nnn, rfl⟩ | rfl := hi
  · refine ⟨_, _, rfl, rfl, ?_⟩
    rw [hS.sp h, hR.params h, hR.pc h]
    split_ifs
    · exact hR.writePc (hS.push h s.pc) _
    · exact hR.report h _ _ _
  · refine ⟨_, _, rfl, rfl, ?_⟩
    rw [hS.sp h]
    split_ifs
    · exact hR.report h _ _ _
    · exact hS.popPc h

/-- Every instruction takes related states to related states, if it reads only registers that are `seen`. -/
theorem agree (hR : Blind R seen) (h : R s s') {i : Instr} (hseen : ∀ r, readsReg s.params i r = true → seen r)
    (hstack : (∃ nnn, i = .call nnn) ∨ i = .ret → Agree R i s s') (hsound : ∀ x, i = .ldSTVx x → Agree R i s s') :
    Agree R i s s' := by
  have reads : ∀ {t t'} r, R t t' → readsReg s.params i r = true → Machine.readReg t' r = Machine.readReg t r :=
    fun r ht hr => hR.readReg ht (hseen r hr)
  cases i with
  | call nnn => exact hstack (.inl ⟨nnn, rfl⟩)
  | ret => exact hstack (.inr rfl)
  | ldSTVx x => exact hsound x rfl
  | cls => exact ⟨_, _, rfl, rfl, by rw [hR.params h]; exact hR.writeFb h _⟩
  | jp nnn => exact ⟨_, _, rfl, rfl, hR.writePc h _⟩
  | ldImm x nn => exact ⟨_, _, rfl, rfl, hR.writeReg h x _⟩
  | ldI nnn => exact ⟨_, _, rfl, rfl, hR.writeIndex h _⟩
  | seImm x nn | sneImm x nn =>
    exact ⟨_, _, rfl, rfl, by rw [reads x h (by simp [readsReg])]; exact hR.skipIf h _⟩
  | seReg x y | sneReg x y =>
    exact ⟨_, _, rfl, rfl, by rw [reads x h (by simp [readsReg]), reads y h (by simp [readsReg])]; exact hR.skipIf h _⟩
  | jpV0 nnn => exact ⟨_, _, rfl, rfl, by rw [reads 0 h (by simp [readsReg])]; exact hR.writePc h _⟩
  | addImm x nn => exact ⟨_, _, rfl, rfl, by rw [reads x h (by simp [readsReg])]; exact hR.writeReg h x _⟩
  | ldReg x y => exact ⟨_, _, rfl, rfl, by rw [reads y h (by simp [readsReg])]; exact hR.writeReg h x _⟩
  | orReg x y | andReg x y | xorReg x y =>
    exact ⟨_, _, rfl, rfl, by rw [reads x h (by simp [readsReg]), reads y h (by simp [readsReg])]; exact hR.writeReg h x _⟩
  | addReg x y | sub x y | subn x y =>
    refine ⟨_, _, rfl, rfl, hR.flagThenResult h x (fun ht => ?_) fun ht => ?_⟩ <;>
      simp only [carryFlag, difference, hR.params ht, reads x ht (by simp [readsReg]), reads y ht (by simp [readsReg])]
  | shr x y | shl x y =>
    refine ⟨_, _, rfl, rfl, hR.flagThenResult h x (fun ht => ?_) fun ht => ?_⟩ <;>
      simp only [highBitFlag, hR.params ht, reads x ht (by simp [readsReg])]
  | rnd x nn =>
    refine ⟨_, _, rfl, rfl, ?_⟩
    rw [drawnByte, drawnByte, hR.draws h]
    exact hR.writeReg (hR.takeDraw h) x _
  | drw x y n =>
    refine ⟨_, _, rfl, rfl, ?_⟩
    rw [indexAddr, indexAddr, hR.index h]
    refine hR.checkRange h _ _ _ ?_
    rw [drawResult_congr (hR.params h) (hR.mem h) (hR.fb h) (hR.index h) (reads x h (by simp [readsReg])) (reads y h (by simp [readsReg]))]
    exact hR.writeReg (hR.writeFb h _) vf _
  | skp x | sknp x =>
    refine ⟨_, _, rfl, rfl, ?_⟩
    simp only [keyNumber, keyHeld, hR.params h, hR.key h, reads x h (by simp [readsReg])]
    split
    · exact hR.skipIf h _
    · exact hR.report h _ _ _
  | ldVxDT x => exact ⟨_, _, rfl, rfl, by rw [hR.dt h]; exact hR.writeReg h x _⟩
  | ldVxK x =>
    refine ⟨_, _, rfl, rfl, ?_⟩
    simp only [keyWaitValue, hR.params h, hR.key h, hR.fpc h]
    split
    · exact hR.writeReg h x _
    · exact hR.writePc h _
  | ldDTVx x => exact ⟨_, _, rfl, rfl, by rw [reads x h (by simp [readsReg])]; exact hR.writeDt h _⟩
  | addI x => exact ⟨_, _, rfl, rfl, by rw [hR.index h, reads x h (by simp [readsReg])]; exact hR.writeIndex h _⟩
  | ldF x =>
    have hglyph : glyphAddr s' x = glyphAddr s x := by
      unfold glyphAddr
      rw [hR.params h]
      split <;> rename_i hfont
      · rfl
      · rw [reads x h (by simp [readsReg, hfont])]
    exact ⟨_, _, rfl, rfl, by rw [hglyph]; exact hR.writeIndex h _⟩
  | ldB x =>
    refine ⟨_, _, rfl, rfl, ?_⟩
    rw [indexAddr, indexAddr, hR.index h, reads x h (by simp [readsReg])]
    exact hR.checkRange h _ _ _ (hR.storeBytes h _ _)
  | storeRegs x =>
    have hregs : regsUpTo s' x = regsUpTo s x := regsUpTo_congr fun r hr => hR.v h r (hseen r (by simp [readsReg, hr]))
    refine ⟨_, _, rfl, rfl, ?_⟩
    rw [indexAddr, indexAddr, hR.index h, hregs]
    exact hR.checkRange h _ _ _ (hR.storeBytes h _ _)
  | loadRegs x =>
    refine ⟨_, _, rfl, rfl, ?_⟩
    rw [indexAddr, indexAddr, hR.index h, loadBytes_congr (hR.params h) (hR.mem h)]
    exact hR.checkRange h _ _ _ (hR.writeRegsFrom h _ _)

end Blind

/-! ### The stack, ST, diag and slot -/

/-- A change of state that every operation commutes with gives a relation no instruction can tell apart. -/
theorem exec_of_agree {f : State → State} {i : Instr} {s t : State} (h : Agree (fun u u' => u' = f u) i s (f s))
    (ht : exec i s = .next t) : exec i (f s) = .next (f t) := by
  obtain ⟨u, _, hu, hu', rfl⟩ := h
  cases hu.symm.trans ht
  exact hu'

/-- `s` with another return stack. -/
def withStack (k : List Nat) (n : Nat) (s : State) : State := { s with stack := k, sp := n }

/-- `s` with another ST. -/
def withSt (b : Nat) (s : State) : State := { s with st := b }

/-- `s` with records before those of its log. -/
def withOlderDiag (d : List DiagRecord) (s : State) : State := { s with diag := d ++ s.diag }

/-- `s` at another cycle of its frame step. -/
def withSlot (n : Nat) (s : State) : State := { s with slot := n }

theorem blind_withStack (k : List Nat) (n : Nat) : Blind (fun s s' => s' = withStack k n s) fun _ => True := by
  constructor <;> (rintro s _ rfl; intros; rfl)

theorem blind_withSt (b : Nat) : Blind (fun s s' => s' = withSt b s) fun _ => True := by
  constructor <;> (rintro s _ rfl; intros; rfl)

theorem blindStack_withSt (b : Nat) : BlindStack fun s s' => s' = withSt b s := by
  constructor <;> (rintro s _ rfl; intros; rfl)

theorem blind_withSlot (n : Nat) : Blind (fun s s' => s' = withSlot n s) fun _ => True := by
  constructor <;> (rintro s _ rfl; intros; rfl)

theorem blindStack_withSlot (n : Nat) : BlindStack fun s s' => s' = withSlot n s := by
  constructor <;> (rintro s _ rfl; intros; rfl)

theorem report_withOlderDiag (d : List DiagRecord) (c : Condition) (w : Word) (info : Option Nat) (s : State) :
    report c w info (withOlderDiag d s) = withOlderDiag d (report c w info s) := by
  simp only [report, withOlderDiag, List.append_assoc]

theorem blind_withOlderDiag (d : List DiagRecord) : Blind (fun s s' => s' = withOlderDiag d s) fun _ => True := by
  constructor
  case report => rintro s _ rfl c w info; exact report_withOlderDiag d c w info s
  all_goals (rintro s _ rfl; intros; rfl)

theorem blindStack_withOlderDiag (d : List DiagRecord) : BlindStack fun s s' => s' = withOlderDiag d s := by
  constructor <;> (rintro s _ rfl; intros; rfl)

/-- Settles O52: by the relation that ignores the stack and its count. -/
theorem onlyCallAndRetUseTheStack : Obligations.OnlyCallAndRetUseTheStack := by
  intro i s t k n hcall hret ht
  refine exec_of_agree (f := withStack k n) ?_ ht
  refine (blind_withStack k n).agree rfl (fun _ _ => trivial) (fun hi => ?_) fun x hi => ?_
  · obtain ⟨nnn, rfl⟩ | rfl := hi
    · exact absurd rfl (hcall nnn)
    · exact absurd rfl hret
  · subst hi; exact ⟨_, _, rfl, rfl, rfl⟩

theorem exec_withSt {i : Instr} {s t : State} (b : Nat) (hi : ∀ x, i ≠ .ldSTVx x) (ht : exec i s = .next t) :
    exec i (withSt b s) = .next (withSt b t) :=
  exec_of_agree ((blind_withSt b).agree rfl (fun _ _ => trivial)
    ((blind_withSt b).agree_stack (blindStack_withSt b) rfl) fun x h => absurd h (hi x)) ht

/-- Settles O54: FX18 overwrites the other ST; every other instruction keeps it. -/
theorem soundTimerIsNeverRead : Obligations.SoundTimerIsNeverRead := by
  intro i s t b ht
  split <;> rename_i hi
  · cases ht; rfl
  · exact exec_withSt b hi ht

theorem exec_withOlderDiag {i : Instr} {s t : State} (d : List DiagRecord) (ht : exec i s = .next t) :
    exec i (withOlderDiag d s) = .next (withOlderDiag d t) :=
  exec_of_agree ((blind_withOlderDiag d).agree rfl (fun _ _ => trivial)
    ((blind_withOlderDiag d).agree_stack (blindStack_withOlderDiag d) rfl) fun _ h => by subst h; exact ⟨_, _, rfl, rfl, rfl⟩) ht

/-- An instruction appends at most one record. -/
theorem Effect.diag {i : Instr} {s t : State} (h : Effect s i t) : ∃ l, t.diag = s.diag ++ l ∧ l.length ≤ 1 := by
  cases h
  case report c w info => exact ⟨[_], report_diag c w info s, Nat.le_refl 1⟩
  all_goals exact ⟨[], by simp, by simp⟩

/-- Settles O55: the records are those the instruction appends to an empty log. -/
theorem diagIsAppendedAndNeverRead : Obligations.DiagIsAppendedAndNeverRead := by
  intro i s t d ht
  obtain ⟨u, hu, heff⟩ := exec_effect i { s with diag := [] }
  obtain ⟨l, hdiag, hl⟩ := heff.diag
  rw [List.nil_append] at hdiag
  have hrun : ∀ d, exec i { s with diag := d } = .next { u with diag := d ++ l } := fun d => by
    have := exec_withOlderDiag d hu
    simpa only [withOlderDiag, List.append_nil, hdiag] using this
  cases (hrun s.diag).symm.trans ht
  exact ⟨l, hl, rfl, hrun d⟩

/-! ### The registers -/

/-- `s'` is `s` but for the value of register `r`. -/
def SameButReg (r : Reg) (s s' : State) : Prop :=
  s' = { s with v := s'.v } ∧ s'.v.length = s.v.length ∧ ∀ k, k ≠ r.val → s'.v[k]? = s.v[k]?

theorem sameButReg_writeReg (r : Reg) (n : Nat) (s : State) : SameButReg r s (writeReg r n s) := by
  refine ⟨rfl, by rw [writeReg_v, List.length_set], fun k hk => ?_⟩
  rw [writeReg_v, List.getElem?_set, if_neg (Ne.symm hk)]

theorem SameButReg.setV {r : Reg} {s s' : State} (h : SameButReg r s s') (k n : Nat) :
    SameButReg r { s with v := s.v.set k n } { s' with v := s'.v.set k n } := by
  obtain ⟨heq, hlen, hv⟩ := h
  refine ⟨by rw [heq], by simp [hlen], fun j hj => ?_⟩
  simp only [List.getElem?_set, hlen, hv j hj]

theorem blind_sameButReg (r : Reg) : Blind (SameButReg r) (· ≠ r) := by
  constructor
  case v => exact fun h x hx => h.2.2 x.val fun hval => hx (Fin.ext hval)
  case setV => exact fun h k n => h.setV k n
  all_goals
    rintro s s' ⟨heq, hlen, hv⟩
    rw [heq]
  all_goals intros; exact ⟨rfl, hlen, hv⟩

theorem blindStack_sameButReg (r : Reg) : BlindStack (SameButReg r) := by
  constructor <;> (rintro s s' ⟨heq, hlen, hv⟩; rw [heq])
  case push => exact fun _ => ⟨rfl, hlen, hv⟩
  case popPc => exact ⟨rfl, hlen, hv⟩

/-- A block of registers after a load, entry by entry (43_memory_access.md R157). -/
theorem writeRegsFrom_v_getElem? {j : Nat} {bs : List Byte} {s : State} (hlen : j + bs.length ≤ s.v.length) (k : Nat) :
    (writeRegsFrom j bs s).v[k]? =
      if j ≤ k ∧ k < j + bs.length then (bs[k - j]?).map fun b => b.toNat % 2 ^ s.params.vWidth else s.v[k]? := by
  induction bs generalizing j s with
  | nil => rw [if_neg (by simp)]; rfl
  | cons b bs ih =>
    rw [List.length_cons] at hlen ⊢
    rw [writeRegsFrom, ih (by rw [List.length_set]; omega)]
    by_cases hj : k = j
    · subst hj
      rw [if_neg (by omega), if_pos (by omega), List.getElem?_set_self (by omega), Nat.sub_self]
      rfl
    · by_cases hk : j + 1 ≤ k ∧ k < j + 1 + bs.length
      · rw [if_pos hk, if_pos (by omega), show k - j = k - (j + 1) + 1 by omega, List.getElem?_cons_succ]
      · rw [if_neg hk, if_neg (by omega), List.getElem?_set_ne (Ne.symm hj)]

theorem flagThenResult_v_of_ne {x : Reg} {f r : State → Nat} {s : State} {k : Nat} (hx : k ≠ x.val) (hf : k ≠ vf.val) :
    (flagThenResult x f r s).v[k]? = s.v[k]? := by
  unfold flagThenResult
  split <;> simp only [writeReg_v, List.getElem?_set, if_neg hx.symm, if_neg hf.symm]

/-- An instruction leaves every register outside the "writes V" column (10_state.md R23). -/
theorem Effect.v {i : Instr} {s t : State} (h : Effect s i t) (hfits : s.Fits) {k : Nat}
    (hk : ∀ r : Reg, r.val = k → writesReg i r = false) : t.v[k]? = s.v[k]? := by
  have ne_of_writes : ∀ {x : Reg}, writesReg i x = true → k ≠ x.val := fun hx heq => by
    rw [hk _ heq.symm] at hx; cases hx
  cases h
  case setReg x n hw => rw [writeReg_v, List.getElem?_set, if_neg (ne_of_writes hw).symm]
  case setFlagAndReg x f r hx hf => exact flagThenResult_v_of_ne (ne_of_writes hx) (ne_of_writes hf)
  case random x nn n =>
    rw [writeReg_v, takeDraw_v, List.getElem?_set, if_neg (ne_of_writes (x := x) (by simp [writesReg])).symm]
  case draw x y n =>
    rw [writeReg_v, writeFb_v, List.getElem?_set, if_neg (ne_of_writes (x := vf) (by simp [writesReg])).symm]
  case loadBlock x bs hlen =>
    have hv := s.params.numV_ge
    have hx : ¬ (0 ≤ k ∧ k < 0 + bs.length) := fun hlt =>
      ne_of_writes (x := ⟨k, by omega⟩) (by simp [writesReg, Fin.le_def]; omega) rfl
    rw [writeRegsFrom_v_getElem? (by rw [hfits.v_length]; omega), if_neg hx]
  all_goals simp

/-- Settles O32: the effect of an instruction is outside neither column. -/
theorem registerAccessFollowsTheTable : Obligations.RegisterAccessFollowsTheTable := by
  intro i s t hfits _ ht
  refine ⟨fun k hk => (effect_of_exec ht).v hfits hk, fun r n hr => ?_⟩
  have hne : ∀ x, readsReg s.params i x = true → x ≠ r := fun x hx heq => by rw [heq, hr] at hx; cases hx
  have hstart := sameButReg_writeReg r n s
  have hsound : ∀ x, i = .ldSTVx x → Agree (SameButReg r) i s (writeReg r n s) := by
    rintro x rfl
    have hx := readReg_congr ((blind_sameButReg r).v hstart x (hne x (by simp [readsReg])))
    refine ⟨_, _, rfl, rfl, ?_⟩
    rw [hx]
    exact ⟨rfl, hstart.2⟩
  obtain ⟨t', u, ht', hu, heq, -, hv⟩ := (blind_sameButReg r).agree hstart hne
    ((blind_sameButReg r).agree_stack (blindStack_sameButReg r) hstart) hsound
  cases ht'.symm.trans ht
  exact ⟨u, hu, heq, hv⟩

end Sys2Proof.Machine
end

section
/-! The cycle and the step as the statements speak of them, and the rules of the cycle, the frame step and the host (40_cycle.md, 60_exceptions.md). -/

namespace Sys2Proof.Machine

/-! ### The state a cycle starts from, and the end of its slot -/

/-- `s` with the host's call of `step()` that its next cycle begins with, if any, used up. -/
def calling (s : State) : State := { s with host := if s.slot = 0 then s.host.tail else s.host }

theorem State.Runs.runsCycle {s : State} (h : s.Runs) : s.RunsCycle := ⟨h.1, fun h0 => .inl (h.2 h0)⟩

theorem runsCycle_of_callStep {s : State} {rest : List HostAction} (hh : s.halted = false) (hhost : s.host = .callStep :: rest) :
    s.RunsCycle := ⟨hh, fun _ => .inr ⟨rest, hhost⟩⟩

theorem calling_of_runs {s : State} (h : s.Runs) : calling s = s := by
  unfold calling
  split_ifs with h0
  · rw [h.2 h0, List.tail_nil, ← h.2 h0]
  · rfl

theorem calling_of_callStep {s : State} {rest : List HostAction} (h0 : s.slot = 0) (hhost : s.host = .callStep :: rest) :
    calling s = { s with host := rest } := by
  rw [calling, if_pos h0, hhost, List.tail_cons]

theorem step_of_inside {s : State} (h0 : s.slot ≠ 0) : step s = runSlot s := if_neg h0

theorem step_of_nil {s : State} (h0 : s.slot = 0) (hhost : s.host = []) : step s = runSlot s := by
  rw [step, if_pos h0, hostTurn, hhost]

theorem step_of_callStep {s : State} {rest : List HostAction} (h0 : s.slot = 0) (hhost : s.host = .callStep :: rest) :
    step s = runSlot { s with host := rest } := by
  rw [step, if_pos h0, hostTurn, hhost]

theorem step_of_writeKeys {s : State} {k : Keys} {rest : List HostAction} (h0 : s.slot = 0)
    (hhost : s.host = .writeKeys k :: rest) : step s = .next (hostWriteKeys k { s with host := rest }) := by
  rw [step, if_pos h0, hostTurn, hhost]

theorem step_of_init {s : State} {l : Load} {rest : List HostAction} (h0 : s.slot = 0) (hhost : s.host = .init l :: rest) :
    step s = hostInit l { s with host := rest } := by
  rw [step, if_pos h0, hostTurn, hhost]

/-- A step that runs a cycle is a slot of the frame step, the host's call used up. -/
theorem step_of_runsCycle {s : State} (h : s.RunsCycle) : step s = runSlot (calling s) := by
  by_cases h0 : s.slot = 0
  · obtain hnil | ⟨rest, hcall⟩ := h.2 h0
    · rw [step_of_nil h0 hnil, calling_of_runs ⟨h.1, fun _ => hnil⟩]
    · rw [step_of_callStep h0 hcall, calling_of_callStep h0 hcall]
  · rw [step_of_inside h0, calling_of_runs ⟨h.1, fun e => absurd e h0⟩]

theorem runSlot_of_cycle {s u : State} (hh : s.halted = false) (hc : cycle s = .next u) : runSlot s = .next (endSlot u) := by
  rw [runSlot, if_neg (by rw [hh]; decide), hc]

theorem step_of_cycle {s u : State} (hr : s.RunsCycle) (hc : cycle (calling s) = .next u) : step s = .next (endSlot u) :=
  (step_of_runsCycle hr).trans (runSlot_of_cycle (s := calling s) hr.1 hc)

theorem runSlot_of_halted {s : State} (hh : s.halted = true) : runSlot s = .next s := by
  rw [runSlot, if_pos hh]

/-- The end of a slot changes the count of cycles and the timers alone. -/
theorem endSlot_eq (s : State) : endSlot s = { s with slot := (endSlot s).slot, dt := (endSlot s).dt, st := (endSlot s).st } := by
  obtain ⟨-, h⟩ | ⟨-, -, h⟩ | ⟨-, -, h⟩ := endSlot_cases s
  · rw [h]
  · rw [h]
  · rw [h]; rfl

@[simp] theorem endSlot_v (s : State) : (endSlot s).v = s.v := by rw [endSlot_eq]
@[simp] theorem endSlot_index (s : State) : (endSlot s).index = s.index := by rw [endSlot_eq]
@[simp] theorem endSlot_pc (s : State) : (endSlot s).pc = s.pc := by rw [endSlot_eq]
@[simp] theorem endSlot_stack (s : State) : (endSlot s).stack = s.stack := by rw [endSlot_eq]
@[simp] theorem endSlot_sp (s : State) : (endSlot s).sp = s.sp := by rw [endSlot_eq]
@[simp] theorem endSlot_mem (s : State) : (endSlot s).mem = s.mem := by rw [endSlot_eq]
@[simp] theorem endSlot_fb (s : State) : (endSlot s).fb = s.fb := by rw [endSlot_eq]
@[simp] theorem endSlot_key (s : State) : (endSlot s).key = s.key := by rw [endSlot_eq]
@[simp] theorem endSlot_halted (s : State) : (endSlot s).halted = s.halted := by rw [endSlot_eq]
@[simp] theorem endSlot_fault (s : State) : (endSlot s).fault = s.fault := by rw [endSlot_eq]
@[simp] theorem endSlot_diag (s : State) : (endSlot s).diag = s.diag := by rw [endSlot_eq]
@[simp] theorem endSlot_fpc (s : State) : (endSlot s).fpc = s.fpc := by rw [endSlot_eq]
@[simp] theorem endSlot_host (s : State) : (endSlot s).host = s.host := by rw [endSlot_eq]
@[simp] theorem endSlot_params (s : State) : (endSlot s).params = s.params := by rw [endSlot_eq]

theorem endSlot_of_halted {s : State} (h : s.halted = true) : endSlot s = { s with slot := 0 } := by
  rw [endSlot, if_pos h]

/-- The end of a slot of a block that did not halt: the next cycle, or the tick after the last (40_cycle.md R80). -/
theorem endSlot_of_running {s : State} (h : s.halted = false) : endSlot s = { s with
    slot := if s.slot + 1 < s.params.cyclesPerFrame then s.slot + 1 else 0
    dt := if s.slot + 1 < s.params.cyclesPerFrame then s.dt else tick s.dt
    st := if s.slot + 1 < s.params.cyclesPerFrame then s.st else tick s.st } := by
  rw [endSlot, if_neg (by rw [h]; decide)]
  split_ifs <;> rfl

/-! ### The cycle by its fetched word -/

@[simp] theorem advanced_v (s : State) (w : Word) : (advanced s w).v = s.v := rfl
@[simp] theorem advanced_index (s : State) (w : Word) : (advanced s w).index = s.index := rfl
@[simp] theorem advanced_stack (s : State) (w : Word) : (advanced s w).stack = s.stack := rfl
@[simp] theorem advanced_sp (s : State) (w : Word) : (advanced s w).sp = s.sp := rfl
@[simp] theorem advanced_dt (s : State) (w : Word) : (advanced s w).dt = s.dt := rfl
@[simp] theorem advanced_st (s : State) (w : Word) : (advanced s w).st = s.st := rfl
@[simp] theorem advanced_mem (s : State) (w : Word) : (advanced s w).mem = s.mem := rfl
@[simp] theorem advanced_fb (s : State) (w : Word) : (advanced s w).fb = s.fb := rfl
@[simp] theorem advanced_key (s : State) (w : Word) : (advanced s w).key = s.key := rfl
@[simp] theorem advanced_halted (s : State) (w : Word) : (advanced s w).halted = s.halted := rfl
@[simp] theorem advanced_fault (s : State) (w : Word) : (advanced s w).fault = s.fault := rfl
@[simp] theorem advanced_fpc (s : State) (w : Word) : (advanced s w).fpc = s.pc := rfl
@[simp] theorem advanced_slot (s : State) (w : Word) : (advanced s w).slot = s.slot := rfl
@[simp] theorem advanced_host (s : State) (w : Word) : (advanced s w).host = s.host := rfl
@[simp] theorem advanced_params (s : State) (w : Word) : (advanced s w).params = s.params := rfl

theorem fetchFault_latchFpc (s : State) : fetchFault (latchFpc s) = firstOutside s s.pc 2 := rfl

theorem fetchedWord_latchFpc (s : State) : fetchedWord (latchFpc s) = nextWord s := rfl

theorem advancePc_latchFpc (w : Word) (s : State) : advancePc w (latchFpc s) = advanced s w := by
  obtain ⟨hlt, h⟩ | ⟨hge, h⟩ := advancePc_cases w (latchFpc s)
  · have hlt' : s.pc < s.params.pcTop := hlt
    rw [h, advanced, if_pos hlt', if_pos hlt']; rfl
  · have hge' : ¬ s.pc < s.params.pcTop := Nat.not_lt.2 hge
    rw [h, advanced, if_neg hge', if_neg hge']; rfl

theorem nextWord_congr {s s' : State} (hp : s'.params = s.params) (hm : s'.mem = s.mem) (hpc : s'.pc = s.pc) :
    nextWord s' = nextWord s := by
  rw [nextWord, nextWord, hpc, loadByte_congr hp hm, loadByte_congr hp hm]

/-- The fetch is inside memory, as the statements say it (20_memory.md R50). -/
theorem fetch_inside {s : State} (h : s.params.oobPolicy = .wrap ∨ s.pc + 1 < s.params.memSize) : firstOutside s s.pc 2 = none := by
  rw [firstOutside_eq_none]
  exact h.imp_right fun hlt => .inr hlt

/-- The fetch is outside memory under OOB_POLICY = fault (40_cycle.md R83). -/
theorem fetch_outside {s : State} (hp : s.params.oobPolicy = .fault) (hpc : s.params.memSize ≤ s.pc + 1) :
    firstOutside s s.pc 2 = some (max s.pc s.params.memSize) := by
  simp only [firstOutside, hp]
  rw [if_pos ⟨by decide, by omega⟩]

/-- What one cycle can leave: the fetch's fault, what the fetched word's instruction makes of the advanced state, or the record of
a word no row matches (R82 to R87). -/
inductive CycleEffect (s : State) : State → Prop
  | fetchFault (a : Nat) (hf : firstOutside s s.pc 2 = some a) : CycleEffect s (raiseFault none a (latchFpc s))
  | instruction {i : Instr} {u : State} (hf : firstOutside s s.pc 2 = none) (hd : decodeWord (nextWord s) = .ok i)
      (hexec : exec i (advanced s (nextWord s)) = .next u) : CycleEffect s u
  | unknown (e : DecodeError) (hf : firstOutside s s.pc 2 = none) (hd : decodeWord (nextWord s) = .error e) :
      CycleEffect s (report .unknownOpcode (nextWord s) none (advanced s (nextWord s)))

theorem cycle_of_fetchFault {s : State} {a : Nat} (hf : firstOutside s s.pc 2 = some a) :
    cycle s = .next (raiseFault none a (latchFpc s)) := by
  rw [cycle, fetchFault_latchFpc, hf]

theorem cycle_of_ok {s : State} {i : Instr} (hf : firstOutside s s.pc 2 = none) (hd : decodeWord (nextWord s) = .ok i) :
    cycle s = exec i (advanced s (nextWord s)) := by
  rw [cycle, fetchFault_latchFpc, hf, fetchedWord_latchFpc, advancePc_latchFpc, execWord, hd]

theorem cycle_of_error {s : State} {e : DecodeError} (hf : firstOutside s s.pc 2 = none) (hd : decodeWord (nextWord s) = .error e) :
    cycle s = .next (report .unknownOpcode (nextWord s) none (advanced s (nextWord s))) := by
  rw [cycle, fetchFault_latchFpc, hf, fetchedWord_latchFpc, advancePc_latchFpc, execWord, hd]

/-- Every cycle answers a next state. -/
theorem cycle_effect (s : State) : ∃ u, cycle s = .next u ∧ CycleEffect s u := by
  cases hf : firstOutside s s.pc 2 with
  | some a => exact ⟨_, cycle_of_fetchFault hf, .fetchFault a hf⟩
  | none =>
    cases hd : decodeWord (nextWord s) with
    | ok i =>
      obtain ⟨u, hu, -⟩ := exec_effect i (advanced s (nextWord s))
      exact ⟨u, (cycle_of_ok hf hd).trans hu, .instruction hf hd hu⟩
    | error e => exact ⟨_, cycle_of_error hf hd, .unknown e hf hd⟩

theorem effect_of_cycle {s u : State} (h : cycle s = .next u) : CycleEffect s u := by
  obtain ⟨u', hu', heff⟩ := cycle_effect s
  cases hu'.symm.trans h
  exact heff

namespace CycleEffect

variable {s u : State}

theorem params (h : CycleEffect s u) : u.params = s.params := by
  cases h with
  | instruction hf hd hexec => exact (effect_of_exec hexec).params
  | _ => simp

theorem key (h : CycleEffect s u) : u.key = s.key := by
  cases h with
  | instruction hf hd hexec => exact (effect_of_exec hexec).key
  | _ => simp

theorem host (h : CycleEffect s u) : u.host = s.host := by
  cases h with
  | instruction hf hd hexec => exact (effect_of_exec hexec).host
  | _ => simp

theorem slot (h : CycleEffect s u) : u.slot = s.slot := by
  cases h with
  | instruction hf hd hexec => exact (effect_of_exec hexec).slot
  | _ => simp

end CycleEffect

/-! ### The step -/

/-- A slot answers a next state: of a halted block the state itself, and else a cycle and the end of its slot. -/
theorem runSlot_total (s : State) : ∃ t, runSlot s = .next t := by
  cases hh : s.halted with
  | true => exact ⟨s, runSlot_of_halted hh⟩
  | false =>
    obtain ⟨u, hu, -⟩ := cycle_effect s
    exact ⟨_, runSlot_of_cycle hh hu⟩

theorem runSlot_frame {s t : State} (h : runSlot s = .next t) : t.key = s.key ∧ t.host = s.host := by
  obtain ⟨-, rfl⟩ | ⟨-, u, hu, rfl⟩ := runSlot_next h
  · exact ⟨rfl, rfl⟩
  · have heff := effect_of_cycle hu
    exact ⟨(endSlot_key u).trans heff.key, (endSlot_host u).trans heff.host⟩

/-- What a step that is no init can do: nothing but the host's turn, or a cycle and the end of its slot. -/
theorem step_noInit {s t : State} (hn : s.NoInit) (h : step s = .next t) :
    (¬ s.RunsCycle ∧ t = { s with host := t.host, key := t.key }) ∨
    (s.RunsCycle ∧ ∃ u, CycleEffect (calling s) u ∧ t = endSlot u) := by
  by_cases hr : s.RunsCycle
  · right
    rw [step_of_runsCycle hr] at h
    obtain ⟨hh, -⟩ | ⟨-, u, hu, rfl⟩ := runSlot_next h
    · cases hr.1.symm.trans hh
    · exact ⟨hr, u, effect_of_cycle hu, rfl⟩
  · left
    refine ⟨hr, ?_⟩
    obtain ⟨hhost, hrun⟩ | ⟨-, rest, hhost, hrun⟩ | ⟨-, k, rest, -, rfl⟩ | ⟨h0, l, rest, hhost, -⟩ := step_next h
    · obtain ⟨-, rfl⟩ | ⟨hh, -⟩ := runSlot_next hrun
      · rfl
      · exact absurd ⟨hh, fun h0 => .inl (hhost h0)⟩ hr
    · obtain ⟨-, rfl⟩ | ⟨hh, -⟩ := runSlot_next hrun
      · rfl
      · exact absurd (runsCycle_of_callStep (s := s) hh hhost) hr
    · rfl
    · exact absurd hhost (hn h0 l rest)

/-- Settles O6: the two bytes are the word fetched, and the cycle runs its instruction. -/
theorem stepRunsTheDecodedInstruction : Obligations.StepRunsTheDecodedInstruction := by
  intro s i hh hin hdec
  have hd : decodeWord (nextWord s) = .ok i := by
    unfold decode at hdec
    simp only at hdec
    split at hdec <;> cases hdec
    assumption
  have hcycle : cycle (calling s) = exec i (advanced (calling s) (nextWord s)) := cycle_of_ok (s := calling s) (fetch_inside hin) hd
  refine ⟨fun t ht hr => ?_, fun t rest h0 hhost ht => ?_⟩
  · rw [calling_of_runs hr] at hcycle
    exact step_of_cycle hr.runsCycle ((calling_of_runs hr).symm ▸ hcycle.trans ht)
  · rw [← calling_of_callStep h0 hhost] at ht
    exact step_of_cycle (runsCycle_of_callStep hh hhost) (hcycle.trans ht)

/-- Settles O7: the cycle runs the Unknown-opcode row on the advanced state. -/
theorem unknownWordIsReportedAndSkipped : Obligations.UnknownWordIsReportedAndSkipped := by
  intro s e hh hin hd
  have hcycle := cycle_of_error (s := calling s) (fetch_inside hin) hd
  refine ⟨fun hr => ?_, fun rest h0 hhost => ?_⟩
  · rw [step_of_cycle hr.runsCycle hcycle, calling_of_runs hr]; rfl
  · rw [step_of_cycle (runsCycle_of_callStep hh hhost) hcycle, calling_of_callStep h0 hhost]; rfl

theorem raiseFault_eq (w : Option Word) (a : Nat) (s : State) : raiseFault w a s = { s with
    halted := true
    fault := some (s.fault.getD { kind := .memoryOutOfRange, fpc := s.fpc, w := w, addr := a }) } := by
  unfold raiseFault
  cases s.fault <;> rfl

/-- Settles O8: the range check of the fetch names the first address outside memory. -/
theorem fetchOutsideMemoryFaults : Obligations.FetchOutsideMemoryFaults := by
  intro s hr hp hpc
  have hf : firstOutside (calling s) (calling s).pc 2 = some (max s.pc s.params.memSize) := fetch_outside hp hpc
  rw [step_of_cycle hr (cycle_of_fetchFault hf), endSlot_of_halted (raiseFault_halted _ _ _), raiseFault_eq]
  rfl

/-- Settles O9: a slot of a halted block answers the block itself. -/
theorem haltedStepIsANoOp : Obligations.HaltedStepIsANoOp := by
  intro s hh
  refine ⟨fun hhost => ?_, fun rest h0 hhost => ?_, if_pos hh⟩
  · by_cases h0 : s.slot = 0
    · exact (step_of_nil h0 (hhost h0)).trans (runSlot_of_halted hh)
    · exact (step_of_inside h0).trans (runSlot_of_halted hh)
  · rw [step_of_callStep h0 hhost]
    exact runSlot_of_halted (s := { s with host := rest }) hh

/-- Settles O17: the length check of `init` fails. -/
theorem oversizeImageIsRefused : Obligations.OversizeImageIsRefused := by
  intro s l rest h0 hhost hlen
  rw [step_of_init h0 hhost]
  exact if_neg (Nat.not_le.2 hlen)

/-- Settles O14: a slot always answers a next state, and of the host's transactions only an init can be refused. -/
theorem onlyAnOversizeImageIsRefused : Obligations.OnlyAnOversizeImageIsRefused := by
  intro s
  by_cases h0 : s.slot = 0
  · match hhost : s.host with
    | [] =>
      obtain ⟨t, ht⟩ := runSlot_total s
      exact .inl ⟨t, (step_of_nil h0 hhost).trans ht⟩
    | .callStep :: rest =>
      obtain ⟨t, ht⟩ := runSlot_total { s with host := rest }
      exact .inl ⟨t, (step_of_callStep h0 hhost).trans ht⟩
    | .writeKeys k :: rest => exact .inl ⟨_, step_of_writeKeys h0 hhost⟩
    | .init .unreadable :: rest => exact .inl ⟨_, step_of_init h0 hhost⟩
    | .init (.image l) :: rest =>
      by_cases hlen : l.image.length ≤ l.params.maxImage
      · exact .inl ⟨_, (step_of_init h0 hhost).trans (if_pos hlen)⟩
      · exact .inr ⟨h0, oversizeImageIsRefused s l rest h0 hhost (Nat.not_le.1 hlen), l, rest, rfl, Nat.not_le.1 hlen⟩
  · obtain ⟨t, ht⟩ := runSlot_total s
    exact .inl ⟨t, (step_of_inside h0).trans ht⟩

/-- Settles O18: a slot keeps the latch and the pending list, and a launch fits the latch to its own NUM_KEYS. -/
theorem keyLatchChangesOnlyBetweenFrames : Obligations.KeyLatchChangesOnlyBetweenFrames := by
  refine ⟨fun s k rest h0 hhost => ?write, fun s t h hno => ?others, fun s t h h0 => ?inside⟩
  case write =>
    exact ⟨_, step_of_writeKeys h0 hhost, rfl, keyHeld_hostWriteKeys k _⟩
  case inside =>
    rw [step_of_inside h0] at h
    exact (runSlot_frame h).2
  case others =>
    have keeps : t.key = s.key → (∀ j < t.params.numKeys, keyHeld t j = keyHeld s j) ∧ (s.NoInit → t.key = s.key) :=
      fun hk => ⟨fun j _ => by rw [keyHeld, keyHeld, hk], fun _ => hk⟩
    obtain ⟨-, hrun⟩ | ⟨-, rest, -, hrun⟩ | ⟨h0, k, rest, hhost, -⟩ | ⟨h0, l, rest, hhost, hinit⟩ := step_next h
    · exact keeps (runSlot_frame hrun).1
    · exact keeps (runSlot_frame hrun).1
    · exact absurd hhost (hno k rest h0)
    · obtain ⟨-, rfl⟩ | ⟨a, -, -, rfl⟩ := hostInit_next hinit
      · exact keeps rfl
      · refine ⟨fun j hj => ?_, fun hn => absurd hhost (hn h0 l rest)⟩
        have hfit := getD_fitKeys a.params.numKeys s.key j
        rwa [decide_eq_true (show j < a.params.numKeys from hj), Bool.true_and] at hfit

/-! ### Rules of every step but an init -/

/-- Settles O42: a cycle that writes memory runs one of the two store rows. -/
theorem onlyStoresChangeMemory : Obligations.OnlyStoresChangeMemory := by
  intro s t hn h h1 h2
  obtain ⟨-, ht⟩ | ⟨-, u, hu, rfl⟩ := step_noInit hn h
  · rw [ht]
  · rw [endSlot_mem]
    cases hu with
    | fetchFault a hf => rfl
    | unknown e hf hd => rfl
    | instruction hf hd hexec => exact (effect_of_exec hexec).mem (fun x hx => h1 x (hx ▸ hd)) fun x hx => h2 x (hx ▸ hd)

/-- Settles O47: a cycle that writes the framebuffer runs one of the two display rows. -/
theorem onlyDisplayChangesTheScreen : Obligations.OnlyDisplayChangesTheScreen := by
  intro s t hn h h1 h2
  obtain ⟨-, ht⟩ | ⟨-, u, hu, rfl⟩ := step_noInit hn h
  · rw [ht]
  · rw [endSlot_fb]
    cases hu with
    | fetchFault a hf => rfl
    | unknown e hf hd => rfl
    | instruction hf hd hexec => exact (effect_of_exec hexec).fb (fun hx => h1 (hx ▸ hd)) fun x y n hx => h2 x y n (hx ▸ hd)

/-- The pc advance appends no record, or a PcSaturation record (40_cycle.md R84). -/
theorem advanced_diag (s : State) (w : Word) : (advanced s w).diag = s.diag ∨
    ∃ r : DiagRecord, r.code = .pcSaturation ∧ (advanced s w).diag = s.diag ++ [r] := by
  simp only [advanced]
  split_ifs
  · exact .inl rfl
  · exact .inr ⟨_, rfl, rfl⟩

/-- What the pc advance and then at most one record append. -/
theorem diag_of_advanced {s u : State} {w : Word} (h : ∃ l, u.diag = (advanced s w).diag ++ l ∧ l.length ≤ 1) :
    ∃ l, u.diag = s.diag ++ l ∧ l.length ≤ 2 ∧ ∀ a b, l = [a, b] → a.code = .pcSaturation := by
  obtain ⟨l, hu, hl⟩ := h
  obtain hadv | ⟨r, hr, hadv⟩ := advanced_diag s w <;> rw [hadv] at hu
  · exact ⟨l, hu, by omega, fun a b hab => by rw [hab] at hl; simp at hl⟩
  · refine ⟨r :: l, by rw [hu, List.append_assoc, List.singleton_append], by rw [List.length_cons]; omega, fun a b hab => ?_⟩
    cases hab
    exact hr

/-- Settles O56: the pc advance appends at most its own record, and the instruction at most one more. -/
theorem stepAppendsAtMostTwoRecords : Obligations.StepAppendsAtMostTwoRecords := by
  intro s t hn h
  obtain ⟨hr, ht⟩ | ⟨hr, u, hu, rfl⟩ := step_noInit hn h
  · exact ⟨[], by rw [ht, List.append_nil], by simp, nofun, fun hr' => absurd hr' hr⟩
  · rw [endSlot_diag]
    have noFault : firstOutside s s.pc 2 = none → ¬ (s.params.oobPolicy = .fault ∧ s.params.memSize ≤ s.pc + 1) :=
      fun hf ⟨hp, hpc⟩ => by rw [fetch_outside hp hpc] at hf; cases hf
    cases hu with
    | fetchFault a hf => exact ⟨[], by simp [calling], by simp, nofun, fun _ _ _ => rfl⟩
    | instruction hf hd hexec =>
      obtain ⟨l, hl, hlen, hfirst⟩ := diag_of_advanced (effect_of_exec hexec).diag
      exact ⟨l, hl, hlen, hfirst, fun _ hp hpc => absurd ⟨hp, hpc⟩ (noFault hf)⟩
    | unknown e hf hd =>
      obtain ⟨l, hl, hlen, hfirst⟩ := diag_of_advanced (s := calling s) ⟨[_], report_diag _ _ _ _, Nat.le_refl 1⟩
      exact ⟨l, hl, hlen, hfirst, fun _ hp hpc => absurd ⟨hp, hpc⟩ (noFault hf)⟩

/-- Settles O57: a recorded fault halts, and a halted block runs no cycle. -/
theorem faultHaltsUntilInit : Obligations.FaultHaltsUntilInit := by
  intro s t r hinv hf hn h
  have hh : s.halted = true := hinv.fault_halted (by rw [hf]; nofun)
  obtain ⟨-, ht⟩ | ⟨hr, -⟩ := step_noInit hn h
  · exact ⟨ht, by rw [ht]; exact hf, by rw [ht]; exact hh⟩
  · exact absurd hr.1 (by rw [hh]; decide)

/-- Settles O60: JP writes the address it was fetched from. -/
theorem selfJumpChangesNoRegisterMemoryPixelOrPc : Obligations.SelfJumpChangesNoRegisterMemoryPixelOrPc := by
  intro s nnn hfits hr hin hd hpc
  have hself : nnn.toNat % 2 ^ s.params.pcWidth = s.pc := by rw [hpc, Nat.mod_eq_of_lt hfits.pc_lt]
  have hcycle : cycle (calling s) = .next (writePc nnn.toNat (advanced (calling s) (nextWord s))) :=
    cycle_of_ok (s := calling s) (fetch_inside hin) hd
  have hh : (writePc nnn.toNat (advanced (calling s) (nextWord s))).halted = false := hr.1
  rw [step_of_cycle hr hcycle, endSlot_of_running hh]
  simp only [writePc, advanced, calling, hself, tick]
  rfl

/-! ### The wait for a key -/

/-- No key is held exactly when each of the latch reads as released. -/
theorem firstHeld_eq_none {s : State} (h : ∀ k < s.key.length, keyHeld s k = false) : firstHeld s.key = none := by
  rw [firstHeld, List.findIdx?_eq_none_iff]
  intro b hb
  obtain ⟨k, hk, rfl⟩ := List.getElem_of_mem hb
  simpa [keyHeld, hk] using h k hk

theorem exec_ldVxK_of_none {s : State} (h : ∀ k < s.key.length, keyHeld s k = false) (x : Reg) :
    exec (.ldVxK x) s = .next { s with pc := s.fpc % 2 ^ s.params.pcWidth } := by
  have hnone := firstHeld_eq_none h
  simp only [exec, execLdVxK, hnone]
  rfl

/-- Settles O51: pc is set back to the address of the FX0A, and the end of the slot leaves all a fetch depends on. -/
theorem keyWaitStaysInPlace : Obligations.KeyWaitStaysInPlace := by
  intro s t x hfits hr hin hd hlen hkeys h
  have hcycle : cycle (calling s) = .next { advanced (calling s) (nextWord s) with pc := s.pc % 2 ^ s.params.pcWidth } :=
    (cycle_of_ok (s := calling s) (fetch_inside hin) hd).trans (exec_ldVxK_of_none (hlen ▸ hkeys) x)
  rw [Nat.mod_eq_of_lt hfits.pc_lt] at hcycle
  rw [step_of_cycle hr hcycle] at h
  cases h
  refine ⟨by simp, by simp [calling], by simp [calling], by simp [calling], by simp [calling, hr.1], ?_⟩
  exact nextWord_congr (by simp [calling]) (by simp [calling]) (by simp)

/-! ### The frame step -/

theorem exec_withSlot {i : Instr} {s t : State} (n : Nat) (ht : exec i s = .next t) :
    exec i (withSlot n s) = .next (withSlot n t) :=
  exec_of_agree ((blind_withSlot n).agree rfl (fun _ _ => trivial)
    ((blind_withSlot n).agree_stack (blindStack_withSlot n) rfl) fun _ h => by subst h; exact ⟨_, _, rfl, rfl, rfl⟩) ht

/-- A cycle does the same at any place in its frame step. -/
theorem cycle_withSlot {s t : State} (n : Nat) (h : cycle s = .next t) : cycle (withSlot n s) = .next (withSlot n t) := by
  cases hf : firstOutside s s.pc 2 with
  | some a =>
    cases (cycle_of_fetchFault hf).symm.trans h
    exact cycle_of_fetchFault (s := withSlot n s) hf
  | none =>
    cases hd : decodeWord (nextWord s) with
    | ok i => exact (cycle_of_ok (s := withSlot n s) hf hd).trans (exec_withSlot n ((cycle_of_ok hf hd).symm.trans h))
    | error e =>
      cases (cycle_of_error hf hd).symm.trans h
      exact cycle_of_error (s := withSlot n s) hf hd

theorem run_of_halted {s : State} (hh : s.halted = true) (hhost : s.host = []) (n : Nat) : core.run n s = .next s := by
  induction n with
  | zero => rfl
  | succ n ih => rw [run_of_step ((haltedStepIsANoOp s hh).1 fun _ => hhost), ih]

/-- The model's state after `n` cycles of a frame step that did not halt, the last of them followed by the tick; `s` is the frame
step's own, which counts no cycles. -/
def afterCycles (n : Nat) (s : State) : State := if n < s.params.cyclesPerFrame then withSlot n s else tickTimers s

theorem endSlot_withSlot_of_running {n : Nat} {s : State} (hh : s.halted = false) (h0 : s.slot = 0) :
    endSlot (withSlot n s) = afterCycles (n + 1) s := by
  rw [endSlot_of_running (s := withSlot n s) hh, afterCycles, show (withSlot n s).params = s.params from rfl,
    show (withSlot n s).slot = n from rfl]
  split_ifs
  · rfl
  · rw [tickTimers, h0.symm]; rfl

theorem endSlot_withSlot_of_halted {n : Nat} {s : State} (hh : s.halted = true) (h0 : s.slot = 0) : endSlot (withSlot n s) = s := by
  rw [endSlot_of_halted (s := withSlot n s) hh, ← h0]; rfl

theorem step_withSlot {n : Nat} {s t : State} (hh : s.halted = false) (hhost : s.host = []) (ht : cycle s = .next t) :
    step (withSlot n s) = .next (endSlot (withSlot n t)) := by
  have hruns : (withSlot n s).Runs := ⟨hh, fun _ => hhost⟩
  exact step_of_cycle hruns.runsCycle ((calling_of_runs hruns).symm ▸ cycle_withSlot n ht)

/-- From the `n` cycles a frame step has run, the model's next `k` steps are the `k` cycles it still has. -/
theorem run_afterCycles {k n : Nat} {s : State} (hh : s.halted = false) (h0 : s.slot = 0) (hhost : s.host = [])
    (hk : n + k = s.params.cyclesPerFrame) : core.run k (afterCycles n s) = frameCycles k s := by
  induction k generalizing n s with
  | zero => rw [afterCycles, if_neg (by omega)]; rfl
  | succ k ih =>
    obtain ⟨t, ht, heff⟩ := cycle_effect s
    have ht0 : t.slot = 0 := heff.slot.trans h0
    have hthost : t.host = [] := heff.host.trans hhost
    rw [afterCycles, if_pos (by omega), run_of_step (step_withSlot hh hhost ht), frameCycles, ht]
    cases hth : t.halted with
    | true =>
      rw [endSlot_withSlot_of_halted hth ht0, run_of_halted hth hthost]
      exact (if_pos hth).symm
    | false =>
      rw [endSlot_withSlot_of_running hth ht0, ih hth ht0 hthost (by rw [heff.params]; omega)]
      exact (if_neg (by rw [hth]; decide)).symm

/-- Settles O10: the run from the cycles already made, down to none to go. -/
theorem tenStepsAreOneFrameStep : Obligations.TenStepsAreOneFrameStep := by
  intro s h0 hhost
  unfold frameStep
  split_ifs with hh
  · exact run_of_halted hh hhost _
  · have hstart : afterCycles 0 s = s := by
      rw [afterCycles, if_pos s.params.cycles_pos, withSlot, ← h0]
    have hrun := run_afterCycles (n := 0) (Bool.eq_false_iff.2 hh) h0 hhost (Nat.zero_add _)
    rwa [hstart] at hrun

end Sys2Proof.Machine
end

section
/-! The invariant: kept by every step, met after reset and after either init; and the bound of pc (10_state.md R27, 40_cycle.md, 70_reset_and_hazards.md). -/

namespace Sys2Proof.Machine

/-! ### Every register keeps its width -/

section Widths

variable {s : State}

theorem forall_mem_set_lt {l : List Nat} {m : Nat} (h : ∀ n ∈ l, n < m) {b : Nat} (hb : b < m) (k : Nat) :
    ∀ n ∈ l.set k b, n < m := fun n hn => by
  obtain hmem | rfl := List.mem_or_eq_of_mem_set hn
  · exact h n hmem
  · exact hb

theorem setV_fits (h : s.Fits) (k : Nat) {n : Nat} (hn : n < 2 ^ s.params.vWidth) : State.Fits { s with v := s.v.set k n } :=
  { h with v_length := (List.length_set).trans h.v_length, v_lt := forall_mem_set_lt h.v_lt hn k }

theorem writeReg_fits (h : s.Fits) (x : Reg) (n : Nat) : (writeReg x n s).Fits :=
  setV_fits h x.val (Nat.mod_lt _ (Nat.two_pow_pos _))

theorem writeRegsFrom_fits (h : s.Fits) (k : Nat) (bs : List Byte) : (writeRegsFrom k bs s).Fits := by
  induction bs generalizing k s with
  | nil => exact h
  | cons b bs ih => exact ih (setV_fits h k (Nat.mod_lt _ (Nat.two_pow_pos _))) (k + 1)

theorem flagThenResult_fits (h : s.Fits) (x : Reg) (f r : State → Nat) : (flagThenResult x f r s).Fits := by
  unfold flagThenResult
  split <;> exact writeReg_fits (writeReg_fits h vf _) x _

theorem writePc_fits (h : s.Fits) (n : Nat) : (writePc n s).Fits := { h with pc_lt := Nat.mod_lt _ (Nat.two_pow_pos _) }

theorem writeIndex_fits (h : s.Fits) (n : Nat) : (writeIndex n s).Fits := { h with index_lt := Nat.mod_lt _ (Nat.two_pow_pos _) }

theorem writeDt_fits (h : s.Fits) (n : Nat) : (writeDt n s).Fits := { h with dt_lt := Nat.mod_lt _ (Nat.two_pow_pos _) }

theorem writeSt_fits (h : s.Fits) (n : Nat) : (writeSt n s).Fits := { h with st_lt := Nat.mod_lt _ (Nat.two_pow_pos _) }

theorem skipIf_fits (h : s.Fits) (c : Bool) : (skipIf c s).Fits := by
  cases c
  · exact h
  · exact writePc_fits h _

theorem push_fits (h : s.Fits) (n : Nat) : (push n s).Fits :=
  { h with
    stack_length := (List.length_set).trans h.stack_length
    stack_lt := forall_mem_set_lt h.stack_lt (Nat.mod_lt _ (Nat.two_pow_pos _)) s.sp }

theorem popPc_fits (h : s.Fits) : (popPc s).Fits := { h with pc_lt := Nat.mod_lt _ (Nat.two_pow_pos _) }

theorem storeBytes_fits (h : s.Fits) (a : Nat) (bs : List Byte) : (storeBytes a bs s).Fits := by
  rw [storeBytes_eq]
  exact { h with }

theorem Effect.fits {i : Instr} {t : State} (heff : Effect s i t) (h : s.Fits) : t.Fits := by
  cases heff with
  | setReg n hw => exact writeReg_fits h _ n
  | setFlagAndReg f r hx hf => exact flagThenResult_fits h _ f r
  | random x nn n => exact writeReg_fits (s := takeDraw s) { h with } x n
  | loadBlock x bs hlen => exact writeRegsFrom_fits h 0 bs
  | draw x y n => exact writeReg_fits (s := writeFb (drawResult s x y n).1 s) { h with } vf _
  | clear => exact { h with }
  | setIndex n hi => exact writeIndex_fits h n
  | skip c => exact skipIf_fits h c
  | jump nnn => exact writePc_fits h _
  | jumpOffset nnn => exact writePc_fits h _
  | call nnn hroom => exact writePc_fits (push_fits h s.pc) _
  | ret hused => exact popPc_fits h
  | keyWait x => exact writePc_fits h s.fpc
  | setDelay x => exact writeDt_fits h _
  | setSound x => exact writeSt_fits h _
  | storeBlock bs hi hr => exact storeBytes_fits h _ bs
  | report c w info => exact { h with }
  | fault w a => exact { h with }

end Widths

/-! ### The invariant within a cycle -/

/-- The invariant as it holds inside a cycle: all of `State.Inv` but that a halted block is between frame steps, which the end of the
slot restores after a fault. -/
structure State.MidCycle (s : State) : Prop where
  mem_wf : s.mem.wf s.params.memSize = true
  fits : s.Fits
  sp_le : s.sp ≤ s.params.stackDepth
  fb_fits : s.FbFits
  key_length : s.key.length = s.params.numKeys
  slot_lt : s.slot < s.params.cyclesPerFrame
  fault_halted : s.fault ≠ none → s.halted = true

theorem State.Inv.midCycle {s : State} (h : s.Inv) : s.MidCycle :=
  ⟨h.mem_wf, h.fits, h.sp_le, h.fb_fits, h.key_length, h.slot_lt, h.fault_halted⟩

theorem State.Inv.setHost {s : State} (h : s.Inv) (rest : List HostAction) : State.Inv { s with host := rest } :=
  { h with fits := { h.fits with } }

namespace Effect

variable {i : Instr} {s t : State}

/-- A store reaches only bytes inside memory, so memory keeps its canonical form (20_memory.md R45). -/
theorem mem_wf (heff : Effect s i t) (h : s.mem.wf s.params.memSize = true) : t.mem.wf t.params.memSize = true := by
  rw [heff.params]
  cases heff
  case storeBlock bs hr hi => exact storeBytes_mem_wf h hr
  all_goals simpa using h

theorem sp_le (heff : Effect s i t) (h : s.sp ≤ s.params.stackDepth) : t.sp ≤ t.params.stackDepth := by
  rw [heff.params]
  cases heff
  case call nnn hroom => exact hroom
  case ret hused => exact Nat.le_trans (Nat.sub_le _ _) h
  all_goals simpa using h

theorem fbFits (heff : Effect s i t) (h : s.FbFits) : t.FbFits := by
  rw [fbFits_iff, heff.params]
  cases heff
  case clear => exact blankFb_sized _ _
  case draw x y n => exact drawResult_sized h x y n
  all_goals simpa using (fbFits_iff s).1 h

theorem midCycle (heff : Effect s i t) (h : s.MidCycle) : t.MidCycle where
  mem_wf := heff.mem_wf h.mem_wf
  fits := heff.fits h.fits
  sp_le := heff.sp_le h.sp_le
  fb_fits := heff.fbFits h.fb_fits
  key_length := by rw [heff.key, heff.params, h.key_length]
  slot_lt := by rw [heff.slot, heff.params]; exact h.slot_lt
  fault_halted hf := by
    obtain ⟨hh, heq⟩ | ⟨hh, -⟩ := heff.halted
    · rw [hh]; exact h.fault_halted (heq ▸ hf)
    · exact hh

end Effect

theorem advanced_midCycle {s : State} (h : s.MidCycle) (w : Word) : (advanced s w).MidCycle := by
  have hpc : (advanced s w).pc < 2 ^ s.params.pcWidth := by
    simp only [advanced]
    split_ifs
    · exact Nat.mod_lt _ (Nat.two_pow_pos _)
    · exact h.fits.pc_lt
  exact { h with fits := { h.fits with pc_lt := hpc, fpc_lt := h.fits.pc_lt } }

theorem CycleEffect.midCycle {s u : State} (heff : CycleEffect s u) (h : s.MidCycle) : u.MidCycle := by
  cases heff with
  | fetchFault a hf => exact { h with fits := { h.fits with fpc_lt := h.fits.pc_lt }, fault_halted := fun _ => rfl }
  | instruction hf hd hexec => exact (effect_of_exec hexec).midCycle (advanced_midCycle h _)
  | unknown e hf hd =>
    have hadv := advanced_midCycle h (nextWord s)
    exact { hadv with fits := { hadv.fits with } }

theorem endSlot_inv {s : State} (h : s.MidCycle) : (endSlot s).Inv := by
  obtain ⟨hh, heq⟩ | ⟨hh, hlt, heq⟩ | ⟨hh, -, heq⟩ := endSlot_cases s <;> rw [heq]
  · exact { h with fits := { h.fits with }, slot_lt := s.params.cycles_pos, halted_slot := fun _ => rfl }
  · exact { h with fits := { h.fits with }, slot_lt := hlt, halted_slot := fun hh' => by rw [hh] at hh'; cases hh' }
  · have hdt : tick s.dt < 2 ^ s.params.timerWidth := Nat.lt_of_le_of_lt (Nat.sub_le _ _) h.fits.dt_lt
    have hst : tick s.st < 2 ^ s.params.timerWidth := Nat.lt_of_le_of_lt (Nat.sub_le _ _) h.fits.st_lt
    exact { h with fits := { h.fits with dt_lt := hdt, st_lt := hst }, slot_lt := s.params.cycles_pos, halted_slot := fun _ => rfl }

theorem runSlot_inv {s t : State} (h : s.Inv) (hrun : runSlot s = .next t) : t.Inv := by
  obtain ⟨-, rfl⟩ | ⟨-, u, hu, rfl⟩ := runSlot_next hrun
  · exact h
  · exact endSlot_inv ((effect_of_cycle hu).midCycle h.midCycle)

theorem hostWriteKeys_inv {s : State} (h : s.Inv) (k : Keys) : (hostWriteKeys k s).Inv :=
  { h with fits := { h.fits with }, key_length := length_fitKeys _ _ }

/-! ### The two inits -/

/-- A failed init gives every element a value of its form (70_reset_and_hazards.md R240). -/
theorem failedInit_inv {s : State} (hfpc : s.fpc < 2 ^ s.params.pcWidth) (hkey : s.key.length = s.params.numKeys) :
    (failedInit s).Inv where
  mem_wf := memSetBytes_wf (size := s.params.memSize) rfl (by simp)
  fits :=
    { v_length := by simp [failedInit, undefinedState]
      v_lt := fun n hn => by
        obtain ⟨k, -, rfl⟩ := List.mem_map.1 hn
        exact Nat.mod_lt _ (Nat.two_pow_pos _)
      index_lt := Nat.mod_lt _ (Nat.two_pow_pos _)
      pc_lt := Nat.mod_lt _ (Nat.two_pow_pos _)
      stack_length := by simp [failedInit, undefinedState]
      stack_lt := fun n hn => by
        obtain ⟨k, -, rfl⟩ := List.mem_map.1 hn
        exact Nat.mod_lt _ (Nat.two_pow_pos _)
      dt_lt := Nat.mod_lt _ (Nat.two_pow_pos _)
      st_lt := Nat.mod_lt _ (Nat.two_pow_pos _)
      fpc_lt := hfpc }
  sp_le := Nat.lt_succ_iff.1 (Nat.mod_lt _ (Nat.succ_pos _))
  fb_fits := gridOf_sized _ _ _
  key_length := hkey
  slot_lt := s.params.cycles_pos
  halted_slot _ := rfl
  fault_halted _ := rfl

/-- Memory under the image: INIT_FILL, then FONT (70_reset_and_hazards.md R241). -/
theorem fontMemory_wf (l : Launch) : Memory.wf (memSetBytes (applyFill l.params.memSize l.fill (zeroMemory l.params.memSize))
    l.params.fontBase l.font.toList) l.params.memSize = true :=
  memSetBytes_wf (applyFill_wf l.fill (zeroMemory_wf _)) (by rw [Vector.length_toList]; exact l.params.font_fits)

theorem launchMemory_wf {l : Launch} (hlen : l.image.length ≤ l.params.maxImage) : (launchMemory l).wf l.params.memSize = true :=
  memSetBytes_wf (fontMemory_wf l) (by have := l.params.image_fits; omega)

/-- A launch whose image fits meets the invariant, whatever the state before it. -/
theorem launchState_inv {l : Launch} (hlen : l.image.length ≤ l.params.maxImage) (s : State) : (launchState l s).Inv where
  mem_wf := launchMemory_wf hlen
  fits :=
    { v_length := List.length_replicate
      v_lt := fun n hn => by rw [List.eq_of_mem_replicate hn]; exact Nat.two_pow_pos _
      index_lt := Nat.two_pow_pos _
      pc_lt := l.params.programBase_lt
      stack_length := List.length_replicate
      stack_lt := fun n hn => by rw [List.eq_of_mem_replicate hn]; exact Nat.two_pow_pos _
      dt_lt := Nat.two_pow_pos _
      st_lt := Nat.two_pow_pos _
      fpc_lt := l.params.programBase_lt }
  sp_le := Nat.zero_le _
  fb_fits := gridOf_sized _ _ _
  key_length := length_fitKeys _ _
  slot_lt := l.params.cycles_pos
  halted_slot _ := rfl
  fault_halted hf := absurd rfl hf

/-- Settles O12: a step is a slot, a write of the key latch or an init, and each keeps the invariant. -/
theorem stepKeepsInvariant : Obligations.StepKeepsInvariant := by
  intro s t h hstep
  obtain ⟨-, hrun⟩ | ⟨-, rest, -, hrun⟩ | ⟨-, k, rest, -, rfl⟩ | ⟨-, l, rest, -, hinit⟩ := step_next hstep
  · exact runSlot_inv h hrun
  · exact runSlot_inv (h.setHost rest) hrun
  · exact hostWriteKeys_inv (h.setHost rest) k
  · obtain ⟨-, rfl⟩ | ⟨a, -, hlen, rfl⟩ := hostInit_next hinit
    · exact failedInit_inv (s := { s with host := rest }) h.fits.fpc_lt h.key_length
    · exact launchState_inv hlen _

/-- Settles O16: a failed init answers at once, in the form of `failedInit_inv`. -/
theorem failedInitHalts : Obligations.FailedInitHalts := by
  intro s rest h h0 hhost
  exact ⟨_, step_of_init h0 hhost, rfl, rfl, rfl, rfl, failedInit_inv (s := { s with host := rest }) h.fits.fpc_lt h.key_length⟩

/-- After consecutive writes, the addresses of the range read as the bytes written, every other as before. -/
theorem memGet_memSetBytes_range {size : Nat} {m : Memory} (h : m.wf size = true) {a : Nat} {bs : List Byte}
    (ha : a + bs.length ≤ size) (b : Nat) :
    memGet (memSetBytes m a bs) b = if a ≤ b ∧ b < a + bs.length then (bs[b - a]?).getD 0 else memGet m b := by
  rw [memGet_memSetBytes h ha]
  by_cases hb : a ≤ b
  · by_cases hlt : b < a + bs.length
    · rw [if_pos hb, if_pos ⟨hb, hlt⟩, List.getElem?_eq_getElem (by omega)]; rfl
    · rw [if_pos hb, if_neg fun hc => hlt hc.2, List.getElem?_eq_none (by omega)]; rfl
  · rw [if_neg hb, if_neg fun hc => hb hc.1]

/-- The memory of a launch, byte by byte: the image's, else FONT's, else the fill's (R241). -/
theorem memGet_launchMemory {l : Launch} (hlen : l.image.length ≤ l.params.maxImage) {a : Nat} (ha : a < l.params.memSize) :
    memGet (launchMemory l) a =
      if l.params.programBase ≤ a ∧ a < l.params.programBase + l.image.length then (l.image[a - l.params.programBase]?).getD 0
      else if l.params.fontBase ≤ a ∧ a < l.params.fontBase + l.params.fontBytes then (l.font.toList[a - l.params.fontBase]?).getD 0
      else fillByte l.fill a := by
  have himage := l.params.image_fits
  rw [launchMemory, memGet_memSetBytes_range (fontMemory_wf l) (by omega),
    memGet_memSetBytes_range (applyFill_wf l.fill (zeroMemory_wf _)) (by rw [Vector.length_toList]; exact l.params.font_fits),
    Vector.length_toList, memGet_applyFill l.fill (zeroMemory_wf _) ha, memGet_zeroMemory ha]
  rfl

/-- Settles O15: field by field of the launch, with its memory byte by byte. -/
theorem initGivesTheAfterInitState : Obligations.InitGivesTheAfterInitState := by
  intro s l rest h0 hhost hlen
  refine ⟨launchState l { s with host := rest }, (step_of_init h0 hhost).trans (if_pos hlen), rfl, rfl, rfl, rfl, rfl, rfl, rfl,
    fun x hx y hy => ?pixels, fun k hk => ?keys, rfl, rfl, rfl, rfl, rfl, launchState_inv hlen _, fun a ha => memGet_launchMemory hlen ha⟩
  case pixels =>
    have hpix := pixel_gridOf l.params.fbWidth l.params.fbHeight (pixel l.fb) x y
    rwa [decide_eq_true ⟨hx, hy⟩, Bool.true_and] at hpix
  case keys =>
    have hkey := getD_fitKeys l.params.numKeys s.key k
    rwa [decide_eq_true hk, Bool.true_and] at hkey

/-! ### The reset state -/

/-- Memory in canonical form that reads as if it listed nothing lists nothing. -/
theorem eq_nil_of_memGet {size : Nat} {m : Memory} (h : m.wf size = true) (hget : ∀ a < size, memGet m a = unlistedByte a) :
    m = [] := by
  cases m with
  | nil => rfl
  | cons c m =>
    obtain ⟨b, u⟩ := c
    obtain ⟨-, hb, hu, -⟩ := memWfFrom_cons.1 h
    exact absurd (by simpa [memGet] using hget b hb) hu

/-- The launch of the empty image with the default launch arguments. -/
def emptyLaunch (font : Vector Byte defaultParams.fontBytes) : Launch :=
  { image := [], params := defaultParams, font := font, fill := [], fb := [] }

/-- The font is what an unlisted address reads as, so the launch lists no byte. -/
theorem launchMemory_emptyLaunch {font : Vector Byte defaultParams.fontBytes} (hfont : font.toList = fontTable) :
    launchMemory (emptyLaunch font) = [] := by
  have hlen : (emptyLaunch font).image.length ≤ (emptyLaunch font).params.maxImage := Nat.zero_le _
  refine eq_nil_of_memGet (launchMemory_wf hlen) fun a ha => ?_
  have hbytes : defaultParams.fontBytes = fontTable.length := rfl
  rw [memGet_launchMemory hlen ha]
  simp only [emptyLaunch, hfont, unlistedByte, hbytes]
  rw [if_neg (by simp)]
  split_ifs with hrange
  · rfl
  · rw [List.getElem?_eq_none (Nat.not_lt.1 fun hlt => hrange ⟨Nat.zero_le a, by simpa [defaultParams] using hlt⟩)]
    rfl

theorem launchState_emptyLaunch {font : Vector Byte defaultParams.fontBytes} (hfont : font.toList = fontTable) :
    launchState (emptyLaunch font) State.reset = State.reset := by
  have hfb : gridOf defaultParams.fbWidth defaultParams.fbHeight (pixel []) = blankFb defaultParams.fbWidth defaultParams.fbHeight :=
    fb_ext (gridOf_sized _ _ _) (blankFb_sized _ _) fun x hx y hy => by
      rw [pixel_gridOf, pixel_blankFb, decide_eq_true ⟨hx, hy⟩]; rfl
  rw [launchState, launchMemory_emptyLaunch hfont, show (emptyLaunch font).params = defaultParams from rfl,
    show (emptyLaunch font).fb = [] from rfl, hfb]
  rfl

/-- Settles O19: field by field, with the memory that lists no byte. -/
theorem resetIsTheLaunchOfTheEmptyImage : Obligations.ResetIsTheLaunchOfTheEmptyImage :=
  fun _ hfont => congrArg Host.Outcome.next (launchState_emptyLaunch hfont)

/-- Settles O13: reset is the state of a launch. -/
theorem resetMeetsInvariant : Obligations.ResetMeetsInvariant := by
  have hinv := launchState_inv (l := emptyLaunch ⟨fontTable.toArray, rfl⟩) (Nat.zero_le _) State.reset
  rwa [launchState_emptyLaunch rfl] at hinv

/-! ### The timers -/

/-- An instruction that halts the block faulted, and changed no timer. -/
theorem Effect.timers_of_halted {i : Instr} {s t : State} (heff : Effect s i t) (hs : s.halted = false) (ht : t.halted = true) :
    t.dt = s.dt ∧ t.st = s.st := by
  cases heff
  case fault w a => exact ⟨rfl, rfl⟩
  all_goals simp [hs] at ht

theorem dtAfter_of_ne {s : State} {i : Instr} (hd : decodeWord (nextWord s) = .ok i) (hi : ∀ x, i ≠ .ldDTVx x) : dtAfter s = s.dt := by
  unfold dtAfter
  split <;> rename_i h
  · exact absurd (Except.ok.inj (hd.symm.trans h)) (hi _)
  · rfl

theorem stAfter_of_ne {s : State} {i : Instr} (hd : decodeWord (nextWord s) = .ok i) (hi : ∀ x, i ≠ .ldSTVx x) : stAfter s = s.st := by
  unfold stAfter
  split <;> rename_i h
  · exact absurd (Except.ok.inj (hd.symm.trans h)) (hi _)
  · rfl

/-- What the decoded instruction leaves in the timers. -/
theorem timers_of_exec {s u : State} {i : Instr} (hd : decodeWord (nextWord s) = .ok i)
    (hu : exec i (advanced s (nextWord s)) = .next u) : u.dt = dtAfter s ∧ u.st = stAfter s := by
  have heff := effect_of_exec hu
  constructor
  · by_cases hi : ∃ x, i = .ldDTVx x
    · obtain ⟨x, rfl⟩ := hi
      cases hu
      rw [dtAfter, hd]; rfl
    · rw [dtAfter_of_ne hd fun x hx => hi ⟨x, hx⟩]
      exact heff.dt fun x hx => hi ⟨x, hx⟩
  · by_cases hi : ∃ x, i = .ldSTVx x
    · obtain ⟨x, rfl⟩ := hi
      cases hu
      rw [stAfter, hd]; rfl
    · rw [stAfter_of_ne hd fun x hx => hi ⟨x, hx⟩]
      exact heff.st fun x hx => hi ⟨x, hx⟩

namespace CycleEffect

variable {s u : State}

theorem timers_of_halted (h : CycleEffect s u) (hs : s.halted = false) (hu : u.halted = true) : u.dt = s.dt ∧ u.st = s.st := by
  cases h with
  | fetchFault a hf => exact ⟨rfl, rfl⟩
  | instruction hf hd hexec => exact (effect_of_exec hexec).timers_of_halted hs hu
  | unknown e hf hd => exact ⟨rfl, rfl⟩

theorem timers_of_running (h : CycleEffect s u) (hu : u.halted = false) : u.dt = dtAfter s ∧ u.st = stAfter s := by
  cases h with
  | fetchFault a hf => cases hu
  | instruction hf hd hexec => exact timers_of_exec hd hexec
  | unknown e hf hd => exact ⟨by rw [dtAfter, hd]; rfl, by rw [stAfter, hd]; rfl⟩

end CycleEffect

/-- Settles O11: the instruction leaves its timers, and the end of the slot ticks them after the last cycle. -/
theorem timersTickOncePerFrameStep : Obligations.TimersTickOncePerFrameStep := by
  intro s t hinv hn h
  obtain ⟨hr, ht⟩ | ⟨hr, u, hu, rfl⟩ := step_noInit hn h
  · exact ⟨fun _ => ⟨by rw [ht], by rw [ht]⟩, fun hr' => absurd hr' hr, fun hr' => absurd hr' hr⟩
  · refine ⟨fun hr' => absurd hr hr', fun _ hh => ?_, fun _ hh => ?_⟩ <;> rw [endSlot_halted] at hh
    · rw [endSlot_of_halted hh]
      exact hu.timers_of_halted hr.1 hh
    · have hslot : u.slot = s.slot := hu.slot
      have hparams : u.params = s.params := hu.params
      have hlast : s.slot + 1 < s.params.cyclesPerFrame ↔ ¬ s.slot + 1 = s.params.cyclesPerFrame := by
        have := hinv.slot_lt; omega
      obtain ⟨hdt, hst⟩ : u.dt = dtAfter s ∧ u.st = stAfter s := hu.timers_of_running hh
      rw [endSlot_of_running hh]
      simp only [hslot, hparams, hdt, hst, hlast, ite_not, tick, and_self]

/-! ### The bound of pc -/

theorem stackSlot_push_le {s : State} {m : Nat} (h : ∀ k, stackSlot s k ≤ m) {n : Nat} (hn : n ≤ m) (k : Nat) :
    stackSlot (push n s) k ≤ m := by
  have hmod : n % 2 ^ s.params.stackEntryWidth ≤ m := Nat.le_trans (Nat.mod_le _ _) hn
  have hk := h k
  unfold stackSlot at hk ⊢
  rw [List.getD_eq_getElem?_getD] at hk ⊢
  rw [push_stack, List.getElem?_set]
  split_ifs
  · exact hmod
  · exact Nat.zero_le _
  · exact hk

/-- From an advanced pc and return addresses of at most 0xFFF, an instruction leaves pc at most 0x10FE, which JP V0 can reach, and
return addresses of at most 0xFFF. -/
theorem Effect.pc_le {i : Instr} {s t : State} (heff : Effect s i t) (hpc : s.pc ≤ 0xFFF) (hfpc : s.fpc ≤ 0xFFF)
    (hv0 : readReg s 0 ≤ 0xFF) (hstack : ∀ k, stackSlot s k ≤ 0xFFF) : t.pc ≤ 0x10FE ∧ ∀ k, stackSlot t k ≤ 0xFFF := by
  have mod_le : ∀ {n w : Nat}, n ≤ 0x10FE → n % 2 ^ w ≤ 0x10FE := fun h => Nat.le_trans (Nat.mod_le _ _) h
  cases heff with
  | skip c =>
    refine ⟨?_, fun k => by simpa [stackSlot] using hstack k⟩
    rw [skipIf_eq]
    cases c
    · exact Nat.le_trans hpc (by decide)
    · exact mod_le (by omega)
  | jump nnn => exact ⟨mod_le (by omega), hstack⟩
  | jumpOffset nnn => exact ⟨mod_le (by omega), hstack⟩
  | call nnn hroom => exact ⟨mod_le (by omega), stackSlot_push_le hstack hpc⟩
  | ret hused => exact ⟨mod_le (Nat.le_trans (hstack _) (by decide)), hstack⟩
  | keyWait x => exact ⟨mod_le (by omega), hstack⟩
  | _ => exact ⟨by simpa using Nat.le_trans hpc (by decide), fun k => by simpa [stackSlot] using hstack k⟩

theorem advanced_pc_le {s : State} (hlast : s.pc ≤ 0xFFE) (htop : s.params.pcTop ≤ 0xFFE) (w : Word) : (advanced s w).pc ≤ 0xFFF := by
  simp only [advanced]
  split_ifs
  · exact Nat.le_trans (Nat.mod_le _ _) (by omega)
  · omega

/-- Settles O59: a fetch inside memory leaves the advanced pc at 0xFFF or below, and a fetch outside it does not move pc. -/
theorem pcNeverPassesItsBound : Obligations.PcNeverPassesItsBound := by
  intro s t hn hp hmem htop hwidth hfits hpc hstack h
  obtain ⟨-, ht⟩ | ⟨-, u, hu, rfl⟩ := step_noInit hn h
  · rw [ht]
    exact ⟨hpc, hstack⟩
  · have inside : firstOutside s s.pc 2 = none → s.pc ≤ 0xFFE := fun hf => by
      obtain hw | h0 | hle := firstOutside_eq_none.1 hf
      · rw [hp] at hw; cases hw
      · cases h0
      · omega
    have bound : u.pc ≤ 0x10FE ∧ ∀ k, stackSlot u k ≤ 0xFFF := by
      cases hu with
      | fetchFault a hf => exact ⟨hpc, hstack⟩
      | unknown e hf hd => exact ⟨Nat.le_trans (advanced_pc_le (s := calling s) (inside hf) htop (nextWord s)) (by decide), hstack⟩
      | instruction hf hd hexec =>
        have hlast := inside hf
        have hv0 : readReg s 0 < 2 ^ s.params.vWidth := readReg_lt hfits.v_lt 0
        have h256 : 2 ^ s.params.vWidth ≤ 2 ^ 8 := Nat.pow_le_pow_right (by decide) hwidth
        exact (effect_of_exec hexec).pc_le (advanced_pc_le (s := calling s) hlast htop _) (Nat.le_trans hlast (by decide))
          (Nat.lt_succ_iff.1 (Nat.lt_of_lt_of_le hv0 h256)) hstack
    simpa [stackSlot] using bound

end Sys2Proof.Machine
end

section
/-! Proofs about the control flow, register, index, timer and input rows (41_control_flow.md, 42_alu.md, 43_memory_access.md, 45_timers_input.md). -/

namespace Sys2Proof.Machine

/-! ### Control flow -/

/-- Settles O20: each row is one write of pc. -/
theorem jumpsSetPc : Obligations.JumpsSetPc := fun _ _ => ⟨⟨_, rfl, rfl, rfl⟩, ⟨_, rfl, rfl, rfl⟩⟩

theorem movesPc_of_skipIf {i : Instr} {s : State} {c : Bool} (hexec : exec i s = .next (skipIf c s)) :
    MovesPc i s (if c then (s.pc + 2) % 2 ^ s.params.pcWidth else s.pc) :=
  ⟨_, hexec, by rw [skipIf_eq], by rw [skipIf_eq]⟩

/-- Settles O21: each row is one skip. -/
theorem skipsAddTwoWhenTheyHold : Obligations.SkipsAddTwoWhenTheyHold := by
  intro s x y nn
  have hSeImm := movesPc_of_skipIf (i := .seImm x nn) (s := s) rfl
  have hSneImm := movesPc_of_skipIf (i := .sneImm x nn) (s := s) rfl
  have hSeReg := movesPc_of_skipIf (i := .seReg x y) (s := s) rfl
  have hSneReg := movesPc_of_skipIf (i := .sneReg x y) (s := s) rfl
  simp only [decide_eq_true_eq, ite_not] at hSeImm hSneImm hSeReg hSneReg
  exact ⟨hSeImm, hSneImm, hSeReg, hSneReg⟩

theorem exec_call_of_lt {s : State} (nnn : BitVec 12) (h : s.sp < s.params.stackDepth) :
    exec (.call nnn) s = .next (writePc nnn.toNat (push s.pc s)) := congrArg Host.Outcome.next (if_pos h)

/-- Settles O22: by whether the stack has room. -/
theorem callPushesOrReports : Obligations.CallPushesOrReports := by
  intro s nnn hlen
  refine ⟨fun hroom => ⟨_, exec_call_of_lt nnn hroom, rfl, rfl, fun k => ?_⟩,
    fun hfull => congrArg Host.Outcome.next (if_neg (Nat.not_lt.2 hfull))⟩
  rw [writePc_stack, push_stack, List.getElem?_set]
  by_cases hk : k = s.sp
  · subst hk
    rw [if_pos rfl, if_pos rfl, if_pos (hlen ▸ hroom)]
  · rw [if_neg (Ne.symm hk), if_neg hk]

/-- Settles O23: by whether the stack is empty. -/
theorem retPopsOrReports : Obligations.RetPopsOrReports := fun _ =>
  ⟨fun hused => congrArg Host.Outcome.next (if_neg (Nat.ne_of_gt hused)), fun hempty => congrArg Host.Outcome.next (if_pos hempty)⟩

/-- Settles O24: the slot the RET reads is the one the CALL wrote, and it holds pc whole. -/
theorem retReturnsAfterTheCall : Obligations.RetReturnsAfterTheCall := by
  intro s t u nnn hfits hwidth hroom hcall hstack hsp hparams
  obtain ⟨t', ht', hframe, -, hslots⟩ := (callPushesOrReports s nnn hfits.stack_length).1 hroom
  cases ht'.symm.trans hcall
  have husp : u.sp = s.sp + 1 := by rw [hsp, hframe]
  have hpc : s.pc % 2 ^ s.params.stackEntryWidth = s.pc :=
    Nat.mod_eq_of_lt (Nat.lt_of_lt_of_le hfits.pc_lt (Nat.pow_le_pow_right (by decide) hwidth))
  have hslot : stackSlot u (u.sp - 1) = s.pc := by
    rw [stackSlot, List.getD_eq_getElem?_getD, hstack, husp, Nat.add_sub_cancel, hslots, if_pos rfl, Option.getD_some, hpc]
  refine ⟨_, (retPopsOrReports u).1 (by omega), ?_, by simp [husp], rfl⟩
  simp only [hslot, hparams]
  exact Nat.mod_eq_of_lt hfits.pc_lt

/-! ### Registers -/

/-- An instruction whose whole effect is one register write writes the value mod 2 to the register's width. -/
theorem writesReg_mod_of_exec {i : Instr} {s : State} {x : Reg} {n : Nat} (hfits : s.Fits)
    (hexec : exec i s = .next (writeReg x n s)) : WritesReg i s x (n % 2 ^ s.params.vWidth) :=
  ⟨_, hexec, rfl, writeReg_v_getElem? hfits.v_length x n⟩

/-- Settles O25: each row is one register write. -/
theorem loadsWriteTheirRegister : Obligations.LoadsWriteTheirRegister := fun _ _ y _ hfits =>
  ⟨writesReg_mod_of_exec hfits rfl, writesReg_of_exec_writeReg hfits rfl (readReg_lt hfits.v_lt y), writesReg_mod_of_exec hfits rfl⟩

/-- Settles O26: one register write, mod 2 to the width. -/
theorem addImmediateWrapsWithoutFlag : Obligations.AddImmediateWrapsWithoutFlag := fun _ _ _ hfits => writesReg_mod_of_exec hfits rfl

/-- Settles O31: one register write after the draw is taken. -/
theorem randomWritesTheMaskedDraw : Obligations.RandomWritesTheMaskedDraw := by
  intro s x nn hfits
  refine ⟨_, rfl, rfl, fun k => ?_⟩
  rw [writeReg_v_getElem? (s := takeDraw s) hfits.v_length, BitVec.toNat_and]
  rfl

/-! ### Flag-setting rows -/

/-- The registers the result statement of a flag-setting row reads, once the flag is `f` (42_alu.md R128). -/
def resultState (s : State) (f : Nat) : State :=
  match s.params.vfOrder with
  | .sequential => writeReg vf f s
  | .latched => s

@[simp] theorem resultState_params (s : State) (f : Nat) : (resultState s f).params = s.params := by
  unfold resultState; split <;> rfl

theorem flagThenResult_eq_writes (x : Reg) (flag result : State → Nat) (s : State) :
    flagThenResult x flag result s = writeReg x (result (resultState s (flag s))) (writeReg vf (flag s) s) := by
  unfold flagThenResult resultState
  cases s.params.vfOrder <;> rfl

theorem readReg_resultState {s : State} {f : Nat} (hfits : s.Fits) (hf : f < 2 ^ s.params.vWidth) (k : Reg) :
    readReg (resultState s f) k = afterFlag s f k := by
  unfold resultState afterFlag
  split <;> rename_i horder
  · rw [readReg_writeReg_of_length _ _ _ hfits.v_length, Nat.mod_eq_of_lt hf]
    simp only [horder, true_and]
  · simp only [horder, reduceCtorEq, false_and, if_false]

theorem afterFlag_lt {s : State} {f : Nat} (hfits : s.Fits) (hf : f < 2 ^ s.params.vWidth) (k : Reg) :
    afterFlag s f k < 2 ^ s.params.vWidth := by
  unfold afterFlag
  split_ifs
  · exact hf
  · exact readReg_lt hfits.v_lt k

/-- A flag-setting row writes its flag to VF, and then its result over it where X is F. -/
theorem writesFlagAndReg_of_exec {i : Instr} {s : State} {x : Reg} {flag result : State → Nat} {f b : Nat} (hfits : s.Fits)
    (hexec : exec i s = .next (flagThenResult x flag result s)) (hflag : flag s = f) (hf : f < 2 ^ s.params.vWidth)
    (hb : result (resultState s f) % 2 ^ s.params.vWidth = b) : WritesFlagAndReg i s x f b := by
  rw [flagThenResult_eq_writes, hflag] at hexec
  refine ⟨_, hexec, rfl, fun k => ?_⟩
  rw [writeReg_v_getElem? (writeReg_fits hfits vf f).v_length, writeReg_v_getElem? hfits.v_length, writeReg_params, hb, Nat.mod_eq_of_lt hf]

theorem one_lt_two_pow_vWidth (p : Params) : 1 < 2 ^ p.vWidth := Nat.one_lt_two_pow (Nat.ne_of_gt p.vWidth_pos)

theorem flagValue_lt (c : Bool) (p : Params) : flagValue c < 2 ^ p.vWidth := by
  have := one_lt_two_pow_vWidth p
  cases c <;> simp only [flagValue, if_true, if_false, Bool.false_eq_true] <;> omega

theorem flagValue_decide (P : Prop) [Decidable P] : flagValue (decide P) = if P then 1 else 0 := by
  simp only [flagValue, decide_eq_true_eq]

/-- Settles O28: the carry is a flag of 0 or 1, which fits VF. -/
theorem addRegistersSetsCarry : Obligations.AddRegistersSetsCarry := by
  rintro s x y f hfits rfl
  rw [← flagValue_decide]
  have hf := flagValue_lt (decide (readReg s x + readReg s y > 2 ^ s.params.vWidth - 1)) s.params
  refine writesFlagAndReg_of_exec hfits rfl rfl hf ?_
  simp only [readReg_resultState hfits hf]

/-- Settles O29: each comparison is a flag of 0 or 1, which fits VF. -/
theorem subtractionsSetStrictBorrow : Obligations.SubtractionsSetStrictBorrow := by
  rintro s x y f g hfits rfl rfl
  rw [← flagValue_decide, ← flagValue_decide]
  have hf := flagValue_lt (decide (readReg s x > readReg s y)) s.params
  have hg := flagValue_lt (decide (readReg s y > readReg s x)) s.params
  refine ⟨writesFlagAndReg_of_exec hfits rfl rfl hf ?_, writesFlagAndReg_of_exec hfits rfl rfl hg ?_⟩
  · simp only [difference, resultState_params, readReg_resultState hfits hf]
  · simp only [difference, resultState_params, readReg_resultState hfits hg]

/-- Settles O30: the lost bit and the halved value are no larger than the value, so they fit a register. -/
theorem shiftsSetTheLostBit : Obligations.ShiftsSetTheLostBit := by
  rintro s x y f g hfits rfl rfl
  have hx : readReg s x < 2 ^ s.params.vWidth := readReg_lt hfits.v_lt x
  have hf : readReg s x % 2 < 2 ^ s.params.vWidth := Nat.lt_of_le_of_lt (Nat.mod_le _ _) hx
  have hg : readReg s x / 2 ^ (s.params.vWidth - 1) < 2 ^ s.params.vWidth := Nat.lt_of_le_of_lt (Nat.div_le_self _ _) hx
  refine ⟨writesFlagAndReg_of_exec hfits rfl (Nat.and_one_is_mod _) hf ?_,
    writesFlagAndReg_of_exec hfits rfl (Nat.shiftRight_eq_div_pow _ _) hg ?_⟩
  · have hhalf : afterFlag s (readReg s x % 2) x / 2 < 2 ^ s.params.vWidth :=
      Nat.lt_of_le_of_lt (Nat.div_le_self _ _) (afterFlag_lt hfits hf x)
    simp only [readReg_resultState hfits hf, Nat.shiftRight_one, Nat.mod_eq_of_lt hhalf]
  · simp only [readReg_resultState hfits hg, Nat.shiftLeft_eq, pow_one]

/-! ### The index register and the timers -/

/-- Settles O33: each row is one write of I. -/
theorem loadAndAddIndexSetI : Obligations.LoadAndAddIndexSetI := fun _ _ _ => ⟨⟨_, rfl, rfl, rfl⟩, ⟨_, rfl, rfl, rfl⟩⟩

theorem glyphAddr_of_rawIndex {s : State} (h : s.params.fontPointer = .rawIndex) (x : Reg) :
    glyphAddr s x = x.val * s.params.fontGlyphBytes := by
  rw [glyphAddr, h]

/-- The low nibble is the value mod 16 (43_memory_access.md R152). -/
theorem glyphAddr_of_registerValue {s : State} (h : s.params.fontPointer = .registerValue) (x : Reg) :
    glyphAddr s x = readReg s x % 16 * s.params.fontGlyphBytes := by
  have hnibble : readReg s x &&& 0x0F = readReg s x % 16 := Nat.and_two_pow_sub_one_eq_mod _ 4
  rw [glyphAddr, h, ← hnibble]

/-- Settles O34: one write of I, by the two settings of FONT_POINTER. -/
theorem fontPointerSetsI : Obligations.FontPointerSetsI := by
  intro s x
  refine ⟨_, rfl, rfl, ?_⟩
  cases hfont : s.params.fontPointer with
  | rawIndex => exact congrArg (· % 2 ^ s.params.iWidth) (glyphAddr_of_rawIndex hfont x)
  | registerValue => exact congrArg (· % 2 ^ s.params.iWidth) (glyphAddr_of_registerValue hfont x)

/-- Settles O48: each row is one write of its timer. -/
theorem timerWritesSetTheTimer : Obligations.TimerWritesSetTheTimer := fun _ _ => ⟨rfl, rfl⟩

/-! ### Keys -/

/-- Settles O49: by whether the operand names a key. -/
theorem keySkipsFollowTheLatch : Obligations.KeySkipsFollowTheLatch := by
  intro s x
  refine ⟨fun hlt => ?valid, fun hge => ?invalid⟩
  case valid =>
    have hkey : keyNumber s (readReg s x) = some (readReg s x) := if_pos hlt
    have hSkp : exec (.skp x) s = .next (skipIf (keyHeld s (readReg s x)) s) := by simp only [exec, execSkp, hkey]
    have hSknp : exec (.sknp x) s = .next (skipIf (!keyHeld s (readReg s x)) s) := by simp only [exec, execSknp, hkey]
    have hmove := movesPc_of_skipIf hSknp
    simp only [Bool.not_eq_true', ← Bool.not_eq_true, ite_not] at hmove
    exact ⟨movesPc_of_skipIf hSkp, hmove⟩
  case invalid =>
    have hkey : keyNumber s (readReg s x) = none := if_neg (Nat.not_lt.2 hge)
    constructor
    · simp only [ReportsOnly, exec, execSkp, hkey, report]
    · simp only [ReportsOnly, exec, execSknp, hkey, report]

/-- The first held key of the latch is the least one that reads as held (45_timers_input.md R196). -/
theorem firstHeld_eq_some {s : State} {k : Nat} (hk : k < s.key.length) (hheld : keyHeld s k = true)
    (hfirst : ∀ j < k, keyHeld s j = false) : firstHeld s.key = some k := by
  rw [firstHeld, List.findIdx?_eq_some_iff_getElem]
  refine ⟨hk, by simpa [keyHeld, hk] using hheld, fun j hj => ?_⟩
  have hj' : j < s.key.length := Nat.lt_trans hj hk
  simpa [keyHeld, hj'] using hfirst j hj

theorem keyWaitValue_lt {s : State} {k : Nat} (hk : k < s.params.numKeys) : keyWaitValue s k < 2 ^ s.params.vWidth := by
  unfold keyWaitValue
  split
  · exact one_lt_two_pow_vWidth s.params
  · exact Nat.lt_of_lt_of_le hk s.params.keys_le

/-- Settles O50: by the first held key of the latch. -/
theorem keyWaitCompletesOnAHeldKey : Obligations.KeyWaitCompletesOnAHeldKey := by
  intro s x hfits hlen
  refine ⟨fun k hk hheld hfirst => ?held, fun hnone => ?none⟩
  case held =>
    have hexec : exec (.ldVxK x) s = .next (writeReg x (keyWaitValue s k) s) := by
      simp only [exec, execLdVxK, firstHeld_eq_some (hlen ▸ hk) hheld hfirst]
    exact writesReg_of_exec_writeReg hfits hexec (keyWaitValue_lt hk)
  case none =>
    rw [exec_ldVxK_of_none (hlen ▸ hnone) x, Nat.mod_eq_of_lt hfits.fpc_lt]

end Sys2Proof.Machine
end

section
/-! Proofs about the block accesses FX33, FX55 and FX65 (20_memory.md R50 to R62, 43_memory_access.md R153 to R157). -/

namespace Sys2Proof.Machine

/-! ### The bytes a block access designates -/

/-- The accesses base .. base+len-1 designate bytes of memory, and no two of them the same byte. -/
structure Block (s : State) (base len : Nat) : Prop where
  inside : ∀ k < len, resolve s (base + k) < s.params.memSize
  apart : ∀ j < len, ∀ k < len, resolve s (base + j) = resolve s (base + k) → j = k

/-- No block access is longer than memory, so under OOB_POLICY = wrap it does not come back to its first byte. -/
theorem block_of_firstOutside {s : State} {base len : Nat} (h : firstOutside s base len = none) (hlen : len ≤ 16) :
    Block s base len where
  inside k hk := resolve_lt h hk
  apart j hj k hk hjk := by
    have hmem := s.params.memSize_ge
    unfold resolve at hjk
    split at hjk
    · omega
    · have hmod : j ≡ k [MOD s.params.memSize] := Nat.ModEq.add_left_cancel' base hjk
      exact hmod.eq_of_lt_of_lt (by omega) (by omega)

theorem inRange_iff {s : State} {len : Nat} : InRange s len ↔ firstOutside s s.index len = none := firstOutside_eq_none.symm

theorem InRange.block {s : State} {len : Nat} (h : InRange s len) (hlen : len ≤ 16) : Block s s.index len :=
  block_of_firstOutside (inRange_iff.1 h) hlen

theorem checkRange_of_inRange {s : State} {len : Nat} (h : InRange s len) (w : Word) (body : State → State) :
    checkRange (indexAddr s) len w body s = body s := by
  rw [checkRange, indexAddr, inRange_iff.1 h]

theorem Block.tail {s : State} {base len : Nat} {b : Byte} (h : Block s base (len + 1)) : Block (storeByte base b s) (base + 1) len where
  inside k hk := by
    have := h.inside (k + 1) (by omega)
    rwa [show base + (k + 1) = base + 1 + k by omega] at this
  apart j hj k hk hjk := by
    have := h.apart (j + 1) (by omega) (k + 1) (by omega)
      (by rwa [show base + (j + 1) = base + 1 + j by omega, show base + (k + 1) = base + 1 + k by omega])
    omega

/-! ### Stores -/

/-- A store leaves every byte it does not designate. -/
theorem memGet_storeBytes_of_ne {s : State} {base : Nat} {bs : List Byte} (hwf : s.mem.wf s.params.memSize = true)
    (h : Block s base bs.length) {c : Nat} (hc : ∀ k < bs.length, c ≠ resolve s (base + k)) :
    memGet (storeBytes base bs s).mem c = memGet s.mem c := by
  induction bs generalizing base s with
  | nil => rfl
  | cons b bs ih =>
    have hwf' : (storeByte base b s).mem.wf s.params.memSize = true := memSet_wf hwf b (h.inside 0 (by simp))
    have hhead : c ≠ resolve s base := hc 0 (by simp)
    rw [storeBytes, ih hwf' h.tail fun k hk => ?_, storeByte_mem, memGet_memSet hwf, if_neg hhead]
    have := hc (k + 1) (by simpa using hk)
    rwa [show base + (k + 1) = base + 1 + k by omega] at this

/-- Byte `k` of a store reads as stored. -/
theorem memGet_storeBytes {s : State} {base : Nat} {bs : List Byte} (hwf : s.mem.wf s.params.memSize = true)
    (h : Block s base bs.length) {k : Nat} (hk : k < bs.length) :
    memGet (storeBytes base bs s).mem (resolve s (base + k)) = bs.getD k 0 := by
  induction bs generalizing base s k with
  | nil => cases hk
  | cons b bs ih =>
    have hwf' : (storeByte base b s).mem.wf s.params.memSize = true := memSet_wf hwf b (h.inside 0 (by simp))
    rw [storeBytes]
    cases k with
    | zero =>
      rw [memGet_storeBytes_of_ne hwf' h.tail fun j hj heq => ?_, storeByte_mem, memGet_memSet hwf]
      · exact if_pos rfl
      · have := h.apart 0 (by simp) (j + 1) (by simpa using hj) (by rwa [show base + (j + 1) = base + 1 + j by omega])
        omega
    | succ k =>
      rw [show base + (k + 1) = base + 1 + k by omega]
      exact ih hwf' h.tail (by simpa using hk)

/-- What an access reads after a store (20_memory.md R57). -/
theorem loadByte_storeBytes {s : State} {bs : List Byte} (hwf : s.mem.wf s.params.memSize = true)
    (h : Block s s.index bs.length) (a : Nat) : loadByte (storeBytes s.index bs s) a = byteAfterStore s bs a := by
  have hresolve : resolve (storeBytes s.index bs s) a = resolve s a := resolve_congr (storeBytes_params _ _ _) a
  rw [loadByte, hresolve, byteAfterStore]
  split <;> rename_i hfind
  · have hk := List.mem_range.1 (List.mem_of_find?_eq_some hfind)
    have heq := List.find?_some hfind
    rw [← beq_iff_eq.1 heq]
    exact memGet_storeBytes hwf h hk
  · refine memGet_storeBytes_of_ne hwf h fun k hk heq => ?_
    exact List.find?_eq_none.1 hfind k (List.mem_range.2 hk) (beq_iff_eq.2 heq.symm)

/-! ### The rows -/

theorem exec_ldB_of_inRange {s : State} (x : Reg) (h : InRange s 3) :
    exec (.ldB x) s = .next (storeBytes s.index (bcdDigits (readReg s x)) s) :=
  congrArg Host.Outcome.next (checkRange_of_inRange h _ _)

/-- FX55 stores the registers the statement lists (43_memory_access.md R156). -/
theorem regsUpTo_eq_storedBytes {s : State} (hfits : s.Fits) (x : Reg) : regsUpTo s x = storedBytes s (.storeRegs x) := by
  have hv := s.params.numV_ge
  have hlen := hfits.v_length
  refine List.ext_getElem (by simp [regsUpTo, storedBytes]; omega) fun k hk hk' => ?_
  have hk16 : k < 16 := by simp [regsUpTo] at hk; omega
  have hkv : k < s.v.length := by omega
  simp [regsUpTo, storedBytes, readReg, Fin.ofNat, Nat.mod_eq_of_lt hk16, hkv]

theorem exec_storeRegs_of_inRange {s : State} (hfits : s.Fits) (x : Reg) (h : InRange s (x.val + 1)) :
    exec (.storeRegs x) s = .next (storeBytes s.index (storedBytes s (.storeRegs x)) s) := by
  rw [← regsUpTo_eq_storedBytes hfits]
  exact congrArg Host.Outcome.next (checkRange_of_inRange h _ _)

theorem exec_loadRegs_of_inRange {s : State} (x : Reg) (h : InRange s (x.val + 1)) :
    exec (.loadRegs x) s = .next (writeRegsFrom 0 (loadBytes s s.index (x.val + 1)) s) :=
  congrArg Host.Outcome.next (checkRange_of_inRange h _ _)

@[simp] theorem length_storedBytes_storeRegs (s : State) (x : Reg) : (storedBytes s (.storeRegs x)).length = x.val + 1 := by
  simp [storedBytes]

/-- Settles O35: by the two policies. -/
theorem accessDesignatesTheByteOfThePolicy : Obligations.AccessDesignatesTheByteOfThePolicy := by
  intro s a
  have hfault : s.params.oobPolicy = .fault → resolve s a = a := fun hp => by simp only [resolve, hp]
  have hwrap : s.params.oobPolicy = .wrap → resolve s a = a % s.params.memSize := fun hp => by simp only [resolve, hp]
  refine ⟨fun hp => ⟨hfault hp, by rw [loadByte, hfault hp]⟩, fun hp => ⟨hwrap hp, by rw [loadByte, hwrap hp]⟩, fun ha => ?_⟩
  cases hp : s.params.oobPolicy with
  | fault => rw [loadByte, hfault hp]
  | wrap => rw [loadByte, hwrap hp, Nat.mod_eq_of_lt ha]

/-- Settles O36: the three digits are stored in turn. -/
theorem bcdStoresExactDigits : Obligations.BcdStoresExactDigits := by
  intro s x hwf hin
  have hblock : Block s s.index (bcdDigits (readReg s x)).length := hin.block (by decide)
  have hbyte : ∀ k < 3, memGet (storeBytes s.index (bcdDigits (readReg s x)) s).mem (resolve s (s.index + k)) =
      (bcdDigits (readReg s x)).getD k 0 := fun k hk => memGet_storeBytes hwf hblock hk
  have hd : readReg s x / 10 % 10 < 10 := Nat.mod_lt _ (by decide)
  have hu : readReg s x % 10 < 10 := Nat.mod_lt _ (by decide)
  refine ⟨_, readReg s x / 100, readReg s x / 10 % 10, readReg s x % 10, exec_ldB_of_inRange x hin, storeBytes_eq _ _ _,
    by omega, by omega, hd, hu, ?_, ?_, ?_, fun a ha => memGet_storeBytes_of_ne hwf hblock ha⟩
  · have hhundreds := congrArg BitVec.toNat (hbyte 0 (by decide))
    exact hhundreds.trans (BitVec.toNat_ofNat _ _)
  · rw [hbyte 1 (by decide)]
    exact (BitVec.toNat_ofNat _ _).trans (Nat.mod_eq_of_lt (by omega))
  · rw [hbyte 2 (by decide)]
    exact (BitVec.toNat_ofNat _ _).trans (Nat.mod_eq_of_lt (by omega))

/-- Settles O37: byte `k` of the block is register `k`. -/
theorem storeRegistersWritesTheBlock : Obligations.StoreRegistersWritesTheBlock := by
  intro s x hfits hwf hin
  have hblock : Block s s.index (storedBytes s (.storeRegs x)).length := by
    rw [length_storedBytes_storeRegs]; exact hin.block (by omega)
  refine ⟨_, exec_storeRegs_of_inRange hfits x hin, storeBytes_eq _ _ _, fun k hk => ?_, fun a ha => ?_⟩
  · have hk' : k.val < x.val + 1 := Nat.lt_succ_iff.2 hk
    rw [memGet_storeBytes hwf hblock (by simpa using hk')]
    simp [storedBytes, hk', List.getD_eq_getElem?_getD]
  · refine memGet_storeBytes_of_ne hwf hblock fun k hk => ?_
    rw [length_storedBytes_storeRegs] at hk
    exact ha ⟨k, by omega⟩ (Fin.le_def.2 (Nat.lt_succ_iff.1 hk))

/-- Settles O38: register `k` takes byte `k` of the block. -/
theorem loadRegistersReadsTheBlock : Obligations.LoadRegistersReadsTheBlock := by
  intro s x hfits hin
  have hv := s.params.numV_ge
  have hlen : (loadBytes s s.index (x.val + 1)).length = x.val + 1 := length_loadBytes _ _ _
  refine ⟨_, exec_loadRegs_of_inRange x hin, writeRegsFrom_eq _ _ _, fun k => ?_⟩
  rw [writeRegsFrom_v_getElem? (by rw [hlen, hfits.v_length]; omega), hlen]
  by_cases hk : k ≤ x.val
  · rw [if_pos ⟨Nat.zero_le k, by omega⟩, if_pos hk]
    simp [loadBytes, loadByte, Nat.lt_succ_iff.2 hk]
  · rw [if_neg (by omega), if_neg hk]

/-- Settles O39: the range check names the lowest address outside. -/
theorem blockAccessOutsideMemoryFaults : Obligations.BlockAccessOutsideMemoryFaults := by
  intro s i len hi hout
  obtain ⟨a, ha⟩ := Option.ne_none_iff_exists'.1 (mt inRange_iff.2 hout)
  obtain ⟨-, hlo, hhi, houtside, hlowest⟩ := firstOutside_eq_some ha
  refine ⟨a, ?_, hlo, hhi, houtside, hlowest⟩
  have hfault : ∀ body, checkRange (indexAddr s) len (encode i) body s = raiseFault (some (encode i)) a s := fun body => by
    rw [checkRange, indexAddr, ha]
  rw [← raiseFault_eq]
  obtain ⟨x, y, n, rfl, -, rfl⟩ | ⟨x, rfl, rfl⟩ | ⟨x, rfl, rfl⟩ | ⟨x, rfl, rfl⟩ := hi <;>
    exact congrArg Host.Outcome.next (hfault _)

/-- Settles O40: the load reads the bytes the store wrote, and a byte has the room of a register. -/
theorem loadAfterStoreRestoresRegisters : Obligations.LoadAfterStoreRestoresRegisters := by
  intro s t u x hfits hufits hwidth hwf hin ht hmem hindex hparams
  obtain ⟨t', ht', -, hstored, -⟩ := storeRegistersWritesTheBlock s x hfits hwf hin
  cases ht'.symm.trans ht
  have huin : InRange u (x.val + 1) := by rw [InRange, hindex, hparams]; exact hin
  obtain ⟨r, hr, -, hloaded⟩ := loadRegistersReadsTheBlock u x hufits huin
  refine ⟨r, hr, fun k hk => ?_⟩
  have hlt : readReg s k < 2 ^ s.params.vWidth := readReg_lt hfits.v_lt k
  have h256 : readReg s k < 256 := Nat.lt_of_lt_of_le hlt (Nat.pow_le_pow_right (by decide) hwidth)
  rw [readReg, List.getD_eq_getElem?_getD, hloaded, if_pos (Fin.le_def.1 hk), Option.getD_some, hindex, resolve_congr hparams, hmem, hparams,
    hstored k hk, Nat.mod_eq_of_lt h256, Nat.mod_eq_of_lt hlt]

/-- Settles O41: each of the two bytes of the fetch is read after the store. -/
theorem fetchSeesTheStore : Obligations.FetchSeesTheStore := by
  intro s t i x hfits hi hwf hin ht
  have hexec : exec i s = .next (storeBytes s.index (storedBytes s i) s) ∧ (storedBytes s i).length ≤ 16 := by
    obtain rfl | rfl := hi
    · rw [length_storedBytes_storeRegs] at hin ⊢
      exact ⟨exec_storeRegs_of_inRange hfits x hin, by omega⟩
    · exact ⟨exec_ldB_of_inRange x hin, (by decide : 3 ≤ 16)⟩
  cases hexec.1.symm.trans ht
  have hblock := hin.block hexec.2
  rw [nextWord, storeBytes_pc, loadByte_storeBytes hwf hblock, loadByte_storeBytes hwf hblock]

end Sys2Proof.Machine
end

section
/-! Proofs about DXYN: a draw flips each pixel its sprite has a 1 bit for once, and reports the ones it turns off (44_display.md R170 to R177). -/

namespace Sys2Proof.Machine

/-! ### Sets of flips -/

/-- `b` is `a` with the pixels of the set `M` flipped, each once, and with a collision where one of them was set. -/
structure Flips (p : Params) (M : Nat → Nat → Bool) (a b : Framebuffer × Bool) : Prop where
  sized : b.1.Sized p.fbWidth p.fbHeight
  pixel_eq : ∀ px py, pixel b.1 px py = (pixel a.1 px py ^^ M px py)
  collides : b.2 = true ↔ a.2 = true ∨ ∃ px py, M px py = true ∧ pixel a.1 px py = true

namespace Flips

variable {p : Params} {M N : Nat → Nat → Bool} {a b c : Framebuffer × Bool}

theorem refl (ha : a.1.Sized p.fbWidth p.fbHeight) : Flips p (fun _ _ => false) a a where
  sized := ha
  pixel_eq px py := by simp
  collides := by simp

theorem congr (h : Flips p M a b) (hMN : ∀ px py, M px py = N px py) : Flips p N a b := by
  have heq : M = N := funext fun px => funext (hMN px)
  exact heq ▸ h

/-- Flips of disjoint sets, one after the other: the second finds its pixels as they were before the first. -/
theorem trans (h₁ : Flips p M a b) (h₂ : Flips p N b c) (hdisj : ∀ px py, N px py = true → M px py = false) :
    Flips p (fun px py => M px py || N px py) a c where
  sized := h₂.sized
  pixel_eq px py := by
    rw [h₂.pixel_eq, h₁.pixel_eq]
    cases hN : N px py with
    | true => simp [hdisj px py hN]
    | false => simp
  collides := by
    have untouched : ∀ px py, N px py = true → pixel b.1 px py = pixel a.1 px py := fun px py hN => by
      rw [h₁.pixel_eq, hdisj px py hN, Bool.xor_false]
    rw [h₂.collides, h₁.collides]
    constructor
    · rintro ((ha | ⟨px, py, hM, hp⟩) | ⟨px, py, hN, hp⟩)
      · exact .inl ha
      · exact .inr ⟨px, py, by simp [hM], hp⟩
      · exact .inr ⟨px, py, by simp [hN], untouched px py hN ▸ hp⟩
    · rintro (ha | ⟨px, py, hMN, hp⟩)
      · exact .inl (.inl ha)
      · obtain hM | hN := Bool.or_eq_true_iff.1 hMN
        · exact .inl (.inr ⟨px, py, hM, hp⟩)
        · exact .inr ⟨px, py, hN, (untouched px py hN).trans hp⟩

end Flips

/-- One flip inside a draw. -/
theorem flips_flipInto {p : Params} {a : Framebuffer × Bool} (ha : a.1.Sized p.fbWidth p.fbHeight) (x y : Nat) (on : Bool) :
    Flips p (fun px py => decide (on = true ∧ x < p.fbWidth ∧ y < p.fbHeight ∧ px = x ∧ py = y)) a (flipInto p x y on a) where
  sized := flipPixel_sized ha x y on
  pixel_eq := pixel_flipPixel ha x y on
  collides := by
    simp only [flipInto, flipPixel_collides, Bool.or_eq_true, Bool.and_eq_true, decide_eq_true_eq]
    refine or_congr_right ⟨fun ⟨⟨hon, hx, hy⟩, hp⟩ => ⟨x, y, ⟨hon, hx, hy, rfl, rfl⟩, hp⟩, ?_⟩
    rintro ⟨px, py, ⟨hon, hx, hy, rfl, rfl⟩, hp⟩
    exact ⟨⟨hon, hx, hy⟩, hp⟩

/-- The pixels the first `n` columns of a sprite row flip. -/
def rowMask (p : Params) (x0 y : Nat) (b : Byte) (n px py : Nat) : Bool :=
  decide (x0 ≤ px ∧ px < x0 + n ∧ py = y ∧ px < p.fbWidth ∧ py < p.fbHeight) && b.getLsbD (7 - (px - x0))

theorem rowMask_eq_true_iff {p : Params} {x0 y : Nat} {b : Byte} {n px py : Nat} : rowMask p x0 y b n px py = true ↔
    (x0 ≤ px ∧ px < x0 + n ∧ py = y ∧ px < p.fbWidth ∧ py < p.fbHeight) ∧ b.getLsbD (7 - (px - x0)) = true := by
  simp only [rowMask, Bool.and_eq_true, decide_eq_true_eq]

theorem rowMask_succ (p : Params) (x0 y : Nat) (b : Byte) (n px py : Nat) : rowMask p x0 y b (n + 1) px py = (rowMask p x0 y b n px py ||
    decide (b.getLsbD (7 - n) = true ∧ x0 + n < p.fbWidth ∧ y < p.fbHeight ∧ px = x0 + n ∧ py = y)) := by
  rw [Bool.eq_iff_iff, Bool.or_eq_true, rowMask_eq_true_iff, rowMask_eq_true_iff, decide_eq_true_eq]
  constructor
  · rintro ⟨hin, hbit⟩
    by_cases hpx : px = x0 + n
    · rw [hpx, Nat.add_sub_cancel_left] at hbit
      exact .inr ⟨hbit, by omega⟩
    · exact .inl ⟨by omega, hbit⟩
  · rintro (⟨hin, hbit⟩ | ⟨hbit, hx, hy, rfl, rfl⟩)
    · exact ⟨by omega, hbit⟩
    · exact ⟨by omega, by rwa [Nat.add_sub_cancel_left]⟩

theorem flips_row {p : Params} {a : Framebuffer × Bool} (ha : a.1.Sized p.fbWidth p.fbHeight) (x0 y : Nat) (b : Byte) (n : Nat) :
    Flips p (rowMask p x0 y b n) a ((List.range n).foldl (fun acc c => flipInto p (x0 + c) y (b.getLsbD (7 - c)) acc) a) := by
  induction n with
  | zero =>
    refine (Flips.refl ha).congr fun px py => (Bool.eq_false_iff.2 fun hM => ?_).symm
    have hin := (rowMask_eq_true_iff.1 hM).1
    omega
  | succ n ih =>
    rw [List.range_succ, List.foldl_append]
    refine (ih.trans (flips_flipInto ih.sized (x0 + n) y (b.getLsbD (7 - n))) fun px py hN => ?_).congr fun px py =>
      (rowMask_succ p x0 y b n px py).symm
    refine Bool.eq_false_iff.2 fun hM => ?_
    have hin := (rowMask_eq_true_iff.1 hM).1
    have hcol := of_decide_eq_true hN
    omega

/-- The on-screen pixels a sprite of rows `bs` at (x0, y0) has a 1 bit for, bit 7 leftmost (R174, R175). -/
def spriteMask (p : Params) (x0 y0 : Nat) (bs : List Byte) (px py : Nat) : Bool :=
  decide (x0 ≤ px ∧ px < x0 + 8 ∧ y0 ≤ py ∧ py < y0 + bs.length ∧ px < p.fbWidth ∧ py < p.fbHeight) &&
    (bs.getD (py - y0) 0).getLsbD (7 - (px - x0))

theorem spriteMask_eq_true_iff {p : Params} {x0 y0 : Nat} {bs : List Byte} {px py : Nat} : spriteMask p x0 y0 bs px py = true ↔
    (x0 ≤ px ∧ px < x0 + 8 ∧ y0 ≤ py ∧ py < y0 + bs.length ∧ px < p.fbWidth ∧ py < p.fbHeight) ∧
      (bs.getD (py - y0) 0).getLsbD (7 - (px - x0)) = true := by
  simp only [spriteMask, Bool.and_eq_true, decide_eq_true_eq]

theorem spriteMask_cons (p : Params) (x0 y0 : Nat) (b : Byte) (bs : List Byte) (px py : Nat) :
    spriteMask p x0 y0 (b :: bs) px py = (rowMask p x0 y0 b 8 px py || spriteMask p x0 (y0 + 1) bs px py) := by
  rw [Bool.eq_iff_iff, Bool.or_eq_true, rowMask_eq_true_iff, spriteMask_eq_true_iff, spriteMask_eq_true_iff, List.length_cons]
  have hbelow : y0 < py → (b :: bs).getD (py - y0) 0 = bs.getD (py - (y0 + 1)) 0 := fun hlt => by
    rw [show py - y0 = py - (y0 + 1) + 1 by omega, List.getD_cons_succ]
  constructor
  · rintro ⟨hin, hbit⟩
    by_cases hpy : py = y0
    · rw [hpy, Nat.sub_self, List.getD_cons_zero] at hbit
      exact .inl ⟨by omega, hbit⟩
    · rw [hbelow (by omega)] at hbit
      exact .inr ⟨by omega, hbit⟩
  · rintro (⟨hin, hbit⟩ | ⟨hin, hbit⟩)
    · obtain ⟨hlo, hhi, rfl, hx, hy⟩ := hin
      exact ⟨by omega, by rwa [Nat.sub_self, List.getD_cons_zero]⟩
    · exact ⟨by omega, by rwa [hbelow (by omega)]⟩

theorem flips_drawRows {p : Params} {a : Framebuffer × Bool} (ha : a.1.Sized p.fbWidth p.fbHeight) (x0 y0 : Nat) (bs : List Byte) :
    Flips p (spriteMask p x0 y0 bs) a (drawRows p x0 y0 bs a) := by
  induction bs generalizing y0 a with
  | nil => exact (Flips.refl ha).congr fun px py => by simp [spriteMask]
  | cons b bs ih =>
    have hrow := flips_row ha x0 y0 b 8
    refine (hrow.trans (ih hrow.sized (y0 + 1)) fun px py hN => ?_).congr fun px py => (spriteMask_cons p x0 y0 b bs px py).symm
    refine Bool.eq_false_iff.2 fun hM => ?_
    have hthis := (rowMask_eq_true_iff.1 hM).1
    have hbelow := (spriteMask_eq_true_iff.1 hN).1
    omega

/-! ### The draw -/

/-- The on-screen pixels DXYN flips, in the statements' terms. -/
theorem spriteMask_eq (s : State) (x y : Reg) (n px py : Nat) :
    spriteMask s.params (spriteCol s x) (spriteRow s y) (loadBytes s s.index n) px py =
      (decide (px < s.params.fbWidth ∧ py < s.params.fbHeight) && SpriteBit s x y n px py) := by
  have hbyte : py - spriteRow s y < n →
      (loadBytes s s.index n).getD (py - spriteRow s y) 0 = loadByte s (s.index + (py - spriteRow s y)) := fun hrow => by
    simp [loadBytes, hrow, List.getD_eq_getElem?_getD]
  rw [Bool.eq_iff_iff, spriteMask_eq_true_iff, length_loadBytes]
  simp only [SpriteBit, Bool.and_eq_true, decide_eq_true_eq]
  constructor
  · rintro ⟨hin, hbit⟩
    rw [hbyte (by omega)] at hbit
    exact ⟨by omega, by omega, hbit⟩
  · rintro ⟨hscreen, hin, hbit⟩
    exact ⟨by omega, by rwa [hbyte (by omega)]⟩

theorem drawResult_flips {s : State} (hfb : s.FbFits) (x y : Reg) (n : Nat) :
    Flips s.params (fun px py => decide (px < s.params.fbWidth ∧ py < s.params.fbHeight) && SpriteBit s x y n px py)
      (s.fb, false) (drawResult s x y n) :=
  (flips_drawRows (a := (s.fb, false)) hfb _ _ _).congr (spriteMask_eq s x y n)

/-- A draw collides exactly when a pixel its sprite has a 1 bit for was set. -/
theorem drawResult_collides {s : State} (hfb : s.FbFits) (x y : Reg) (n : Nat) : (drawResult s x y n).2 = true ↔
    ∃ px < s.params.fbWidth, ∃ py < s.params.fbHeight, SpriteBit s x y n px py = true ∧ pixel s.fb px py = true := by
  rw [(drawResult_flips hfb x y n).collides]
  simp only [Bool.false_eq_true, false_or, Bool.and_eq_true, decide_eq_true_eq]
  constructor
  · rintro ⟨px, py, ⟨⟨hx, hy⟩, hbit⟩, hp⟩
    exact ⟨px, hx, py, hy, hbit, hp⟩
  · rintro ⟨px, hx, py, hy, hbit, hp⟩
    exact ⟨px, py, ⟨⟨hx, hy⟩, hbit⟩, hp⟩

/-- The state a draw leaves. -/
def drawn (s : State) (x y : Reg) (n : Nat) : State :=
  writeReg vf (flagValue (drawResult s x y n).2) (writeFb (drawResult s x y n).1 s)

/-- A pixel of the screen after a draw. -/
theorem pixel_drawn {s : State} (hfb : s.FbFits) (x y : Reg) (n : Nat) {px py : Nat} (hx : px < s.params.fbWidth)
    (hy : py < s.params.fbHeight) : pixel (drawn s x y n).fb px py = (pixel s.fb px py ^^ SpriteBit s x y n px py) := by
  have hpix := (drawResult_flips hfb x y n).pixel_eq px py
  rwa [decide_eq_true ⟨hx, hy⟩, Bool.true_and] at hpix

theorem exec_drw_of_inRange {s : State} (x y : Reg) {n : Nat} (h : InRange s n) : exec (.drw x y n) s = .next (drawn s x y n) :=
  congrArg Host.Outcome.next (checkRange_of_inRange h _ _)

theorem drawn_fits {s : State} (hfits : s.Fits) (x y : Reg) (n : Nat) : (drawn s x y n).Fits :=
  writeReg_fits (s := writeFb (drawResult s x y n).1 s) { hfits with } vf _

theorem drawn_fbFits {s : State} (hfb : s.FbFits) (x y : Reg) (n : Nat) : (drawn s x y n).FbFits := drawResult_sized hfb x y n

theorem readReg_drawn {s : State} (hfits : s.Fits) (x y : Reg) (n : Nat) (r : Reg) :
    readReg (drawn s x y n) r = if r = vf then flagValue (drawResult s x y n).2 else readReg s r := by
  rw [drawn, readReg_writeReg_of_length _ _ _ (s := writeFb (drawResult s x y n).1 s) hfits.v_length, writeFb_params,
    Nat.mod_eq_of_lt (flagValue_lt _ _)]
  rfl

theorem flagValue_eq_one_iff {c : Bool} : flagValue c = 1 ↔ c = true := by cases c <;> decide

theorem flagValue_eq_zero_iff {c : Bool} : flagValue c = 0 ↔ ¬ c = true := by cases c <;> decide

/-- Settles O44: the set of flips of the draw is the sprite on the screen. -/
theorem drawFlipsTheSpriteAndFlagsCollision : Obligations.DrawFlipsTheSpriteAndFlagsCollision := by
  intro s x y n hfits hfb _ hin
  have hvf : readReg (drawn s x y n) vf = flagValue (drawResult s x y n).2 := by rw [readReg_drawn hfits, if_pos rfl]
  refine ⟨drawn s x y n, exec_drw_of_inRange x y hin, rfl, drawn_fbFits hfb x y n, fun px hx py hy => pixel_drawn hfb x y n hx hy,
    fun k hk => ?_, ?_, ?_⟩
  · rw [drawn, writeReg_v, writeFb_v, List.getElem?_set, if_neg (Ne.symm hk)]
  · rw [← drawResult_collides hfb, hvf]
    exact flagValue_eq_one_iff.2
  · rw [← drawResult_collides hfb, hvf]
    exact flagValue_eq_zero_iff.2

/-! ### Two draws -/

theorem spriteBit_congr {s t : State} {x y : Reg} (hp : t.params = s.params) (hm : t.mem = s.mem) (hi : t.index = s.index)
    (hcol : spriteCol t x = spriteCol s x) (hrow : spriteRow t y = spriteRow s y) (n px py : Nat) :
    SpriteBit t x y n px py = SpriteBit s x y n px py := by
  simp only [SpriteBit, hcol, hrow, hi, loadByte_congr hp hm]

/-- Settles O45: the second draw has the sprite of the first, and finds each of its pixels flipped. -/
theorem drawTwiceRestoresTheScreen : Obligations.DrawTwiceRestoresTheScreen := by
  intro s t x y n hfits hfb _ hin ht hx hy
  cases (exec_drw_of_inRange x y hin).symm.trans ht
  have hreg : ∀ r, r ≠ vf → readReg (drawn s x y n) r = readReg s r := fun r hr => by rw [readReg_drawn hfits, if_neg hr]
  have hcol : spriteCol (drawn s x y n) x = spriteCol s x := by
    by_cases hvf : x = vf
    · exact hx hvf
    · exact congrArg (· % s.params.fbWidth) (hreg x hvf)
  have hrow : spriteRow (drawn s x y n) y = spriteRow s y := by
    by_cases hvf : y = vf
    · exact hy hvf
    · exact congrArg (· % s.params.fbHeight) (hreg y hvf)
  have hbit : ∀ px py, SpriteBit (drawn s x y n) x y n px py = SpriteBit s x y n px py :=
    spriteBit_congr (s := s) (t := drawn s x y n) rfl rfl rfl hcol hrow n
  have hfbt := drawn_fbFits hfb x y n
  have hpix : ∀ px < s.params.fbWidth, ∀ py < s.params.fbHeight,
      pixel (drawn s x y n).fb px py = (pixel s.fb px py ^^ SpriteBit s x y n px py) :=
    fun px hpx py hpy => pixel_drawn hfb x y n hpx hpy
  have hcollides : (drawResult (drawn s x y n) x y n).2 = true ↔
      ∃ px < s.params.fbWidth, ∃ py < s.params.fbHeight, SpriteBit s x y n px py = true ∧ pixel s.fb px py = false := by
    rw [drawResult_collides hfbt]
    refine exists_congr fun px => and_congr_right fun hpx => exists_congr fun py => and_congr_right fun hpy => ?_
    rw [hbit, hpix px hpx py hpy]
    cases SpriteBit s x y n px py <;> simp
  refine ⟨drawn (drawn s x y n) x y n, exec_drw_of_inRange x y hin, ?_, ?_, ?_⟩
  · refine fb_ext (drawResult_sized hfbt x y n) hfb fun px hpx py hpy => ?_
    rw [pixel_drawn hfbt x y n hpx hpy, hbit, hpix px hpx py hpy, Bool.xor_assoc, Bool.xor_self, Bool.xor_false]
  · rw [readReg_drawn (drawn_fits hfits x y n), if_pos rfl, flagValue_eq_one_iff, hcollides]
  · rw [readReg_drawn (drawn_fits hfits x y n), if_pos rfl, flagValue_eq_zero_iff, hcollides]
    simp only [not_exists, not_and, Bool.not_eq_false]

/-- The reset state with every pixel set; its I is at the font's first glyph. -/
def litScreen : State :=
  { State.reset with fb := gridOf defaultParams.fbWidth defaultParams.fbHeight fun _ _ => true }

theorem pixel_litScreen {px py : Nat} (hx : px < litScreen.params.fbWidth) (hy : py < litScreen.params.fbHeight) :
    pixel litScreen.fb px py = true := by
  have hpix := pixel_gridOf litScreen.params.fbWidth litScreen.params.fbHeight (fun _ _ => true) px py
  rwa [decide_eq_true ⟨hx, hy⟩, Bool.true_and] at hpix

/-- Refutes O46: on a screen with every pixel set, the first draw turns the glyph's pixels off and the second turns them on again, which
collides with nothing, though the glyph has its bit at (0, 0). -/
theorem not_secondDrawFlagsEverySpriteBit : ¬ Obligations.SecondDrawFlagsEverySpriteBit := by
  intro h
  have hfits : litScreen.Fits := { resetMeetsInvariant.fits with }
  have hfb : litScreen.FbFits := gridOf_sized _ _ _
  have hin : InRange litScreen 1 := .inr (.inr (by decide))
  have hbit : SpriteBit litScreen 0 1 1 0 0 = true := by decide
  have hfirst := exec_drw_of_inRange 0 1 hin
  obtain ⟨u, hu, -, hone, -⟩ := drawTwiceRestoresTheScreen litScreen _ 0 1 1 hfits hfb (by decide) hin hfirst nofun nofun
  have hflag : readReg u vf = 1 :=
    (h litScreen _ u 0 1 1 hfits hfb (by decide) hin (by decide) (by decide) hfirst hu).2 ⟨0, by decide, 0, by decide, hbit⟩
  obtain ⟨px, hpx, py, hpy, -, hunset⟩ := hone.1 hflag
  rw [pixel_litScreen hpx hpy] at hunset
  cases hunset

end Sys2Proof.Machine
end
